-- ==== Sys2Proof/Word.lean ====
section
/-! DEFINITION. The words of Type R-I (spec/00_scope.md R6, R7, R19): a word is 16 bits (an instruction word, a pair, the pc, a data address), a byte is 8 bits (a general register, a datum, a port). Fields of an instruction word keep their own widths. -/

namespace Sys2Proof

/-- 16 bits (00_scope.md R19). -/
abbrev Word := BitVec 16

/-- 8 bits (00_scope.md R19). -/
abbrev Byte := BitVec 8

/-- The 4-bit `rd` or `rs` field: a general register number 0..15 (10_state.md R20). -/
abbrev RegNum := BitVec 4

/-- The 3-bit `p`, `pd` or `ps` field: a pair number 0..7 (10_state.md R23). -/
abbrev PairNum := BitVec 3

/-- The 4-bit status register `s` and the mask `m` (10_state.md R30). -/
abbrev Status := BitVec 4

end Sys2Proof
end

