-- ==== Sys2Proof/Config.lean ====
section
/-! DEFINITION. The configuration record of 00_scope.md R8 and the free values. Every parameter of R8 is a field of Config, with the spec's default in Config.default; STACK_DEPTH and HLT_WORD are OPEN in the spec, and the values they have in Config.default are the model's own (log entries 2 and 3). IMEM_MAPPED is no field: it is the set of addresses that the loaded instruction space lists (log entry 8). The two draws of 60_exceptions.md R255 are opaque constants: nothing can be proved of their values. -/

namespace Sys2Proof

/-- PAIR_HIGH (10_state.md R24): which register of a pair is the high byte. -/
inductive PairHigh where
  | odd
  | even
deriving DecidableEq, Repr

/-- FLAG_MODEL (10_state.md R29). -/
inductive FlagModel where
  | conventional
  | havoc
deriving DecidableEq, Repr

/-- The three values of BR_OFFSET, K_OFFSET and API_IMM (30_encoding.md R101). -/
inductive Extension where
  | signed
  | unsigned
  | refuseTopBit
deriving DecidableEq, Repr

/-- How many draws a flag write makes: one under `havoc`, none under `conventional` (log entry 12). -/
def FlagModel.draws : FlagModel → Nat
  | .conventional => 0
  | .havoc => 1

/-- The three named flags (10_state.md R28). -/
inductive Flag where
  | c
  | z
  | n
deriving DecidableEq, Repr

/-- An entry of the record of I/O accesses (10_state.md R35): `In(port, value)` or `Out(port, value)`. -/
inductive IoEvent where
  | input (port value : Byte)
  | output (port value : Byte)
deriving DecidableEq, Repr

/-- The addresses `lo`..`hi`, both included; DMEM_MAPPED is a list of these (20_memory.md R51). -/
structure AddrRange where
  lo : Nat
  hi : Nat
deriving DecidableEq, Repr

/-- The operations of an environment's expressions; all on natural numbers, `sub` stopping at 0 and `div`, `mod` by 0 as Lean has them. -/
inductive EnvOp where
  | add
  | sub
  | mul
  | div
  | mod
  | pow
  | and
  | or
  | xor
deriving DecidableEq, Repr

/-- What an environment computes with, as data. `state` is what the environment keeps, any natural number; `port` is the port of the access; `value` is the byte of the access, which is 0 while an answer is still to be given; `draw` is the free byte of the read (log entry 11). -/
inductive EnvExpr where
  | lit (n : Nat)
  | state
  | port
  | value
  | draw
  | op (o : EnvOp) (a b : EnvExpr)
  | ifLess (a b yes no : EnvExpr)
deriving DecidableEq, Repr

/-- IO_ORACLE (00_scope.md R8): an environment that answers `IoRead` and receives `IoWrite` (20_memory.md R55). It keeps a number, begins with `start`, answers a read with `answer` modulo 2^8, and keeps `afterRead` after a read and `afterWrite` after a write. -/
structure Environment where
  start : Nat
  answer : EnvExpr
  afterRead : EnvExpr
  afterWrite : EnvExpr
deriving DecidableEq, Repr

/-- The default of IO_ORACLE (00_scope.md R8): "unconstrained: any byte may be returned". Every answer is the free byte, whatever went before. -/
def Environment.unconstrained : Environment where
  start := 0
  answer := .draw
  afterRead := .state
  afterWrite := .state

/-- The parameters of 00_scope.md R8. No instruction reads or writes them as state. -/
structure Config where
  /-- PAIR_HIGH (10_state.md R24). -/
  pairHigh : PairHigh
  /-- S_BIT_C (10_state.md R30). -/
  sBitC : Fin 4
  /-- S_BIT_Z (10_state.md R30). -/
  sBitZ : Fin 4
  /-- S_BIT_N (10_state.md R30). -/
  sBitN : Fin 4
  /-- FLAG_MODEL (10_state.md R29). -/
  flagModel : FlagModel
  /-- BR_BASE, 0 or 1 (44_type_branch.md R165). -/
  brBase : BitVec 1
  /-- BR_OFFSET (30_encoding.md R101). -/
  brOffset : Extension
  /-- K_OFFSET (30_encoding.md R101). -/
  kOffset : Extension
  /-- API_IMM (30_encoding.md R101). -/
  apiImm : Extension
  /-- STACK_DEPTH, at least 1 (10_state.md R32); OPEN in the spec. -/
  stackDepth : Nat
  /-- HLT_WORD, a word that is no other instruction, or absent (30_encoding.md R105); OPEN in the spec. -/
  hltWord : Option Word
  /-- STRICT_DECODE (30_encoding.md R103). -/
  strictDecode : Bool
  /-- RESET_PC (70_reset_and_hazards.md R260). -/
  resetPc : Word
  /-- DMEM_MAPPED: the data addresses that exist (20_memory.md R51). -/
  dmemMapped : List AddrRange
  /-- IO_ORACLE (20_memory.md R55): the environment behind the ports. -/
  environment : Environment
deriving DecidableEq, Repr

/-- The defaults of 00_scope.md R8. DESIGN CHOICE, unsafe: STACK_DEPTH = 4 (log entry 2) and HLT_WORD absent (log entry 3), which R8 leaves OPEN. -/
def Config.default : Config where
  pairHigh := .odd
  sBitC := 0
  sBitZ := 1
  sBitN := 2
  flagModel := .conventional
  brBase := 0
  brOffset := .signed
  kOffset := .unsigned
  apiImm := .signed
  stackDepth := 4
  hltWord := none
  strictDecode := true
  resetPc := 0x0000
  dmemMapped := [⟨0x0000, 0xFFFF⟩]
  environment := .unconstrained

/-- The bit of `s` that holds a flag (10_state.md R30). -/
def Config.flagBit (cfg : Config) : Flag → Fin 4
  | .c => cfg.sBitC
  | .z => cfg.sBitZ
  | .n => cfg.sBitN

/-- FREE VALUE (log entry 11): the byte drawn for the `k`-th read, given the accesses the environment has seen and the port asked (20_memory.md R55). An unconstrained environment answers with it. -/
opaque Config.freeInput : (k : Nat) → (seen : List IoEvent) → (port : Byte) → Byte

/-- FREE VALUE (log entry 12): what a flag holds after the `k`-th draw under FLAG_MODEL = havoc (10_state.md R29). -/
opaque Config.freeFlag : (k : Nat) → Flag → Bool

end Sys2Proof
end

