-- ==== Sys2Proof/Machine/State.lean ====
section
/-! DEFINITION. The state of the machine (10_state.md R37), the model faults (60_exceptions.md R241), the refusals, and the state after reset (70_reset_and_hazards.md R260). Plain data only. Beside the state of R37 it holds the two parameters of a run that every step reads, the instruction space and the configuration (log entries 1 and 8), and the two counters that number the free values (log entries 11 and 12). -/

namespace Sys2Proof.Machine

/-- The eight kinds of ModelFault (60_exceptions.md R241). Each is raised where the source gives a situation no meaning; each is SAFE in the sense of R243: the model stops where the chip goes on in a way nobody knows. -/
inductive Fault where
  /-- R241 (1), raised by the step: the first word `w` at `pc` matches no instruction. Safe. -/
  | illegalEncoding (w : Word) (pc : Word)
  /-- R241 (2), raised by the step: no instruction word is mapped at `addr`. Safe. -/
  | unmappedFetch (addr : Word)
  /-- R241 (3), raised by loads and stores: DMEM_MAPPED is false at `addr`. Safe. -/
  | unmappedData (addr : Word)
  /-- R241 (4), raised by taken calls and PUS: the stack holds STACK_DEPTH items. Safe. -/
  | stackOverflow
  /-- R241 (5), raised by taken returns, POS and POP: the stack is empty. Safe. -/
  | stackUnderflow
  /-- R241 (6), raised by taken returns, POS and POP: the top item is of another kind. Safe. -/
  | stackKindMismatch
  /-- R241 (7), raised by LRI and LRD: rd is half of the address pair. Safe. -/
  | registerOverlap
  /-- R241 (8), raised by Type Branch, STR, LDR and API under `refuse_top_bit`. Safe. -/
  | ambiguousField
deriving DecidableEq, Repr

/-- Why the model gives a step no meaning. -/
inductive Refusal where
  /-- An instruction without a meaning yet, named by its mnemonic; no arm of exec answers so. Safe. -/
  | notModelled (mnemonic : String)
  /-- Raised by the step under STRICT_DECODE = false at an unallocated word: 30_encoding.md R103 offers no meaning for that setting (log entry 20). Safe. -/
  | nonStrictDecode (w : Word) (pc : Word)
deriving DecidableEq, Repr

/-- An item of the stack (10_state.md R32). -/
inductive StackItem where
  | ret (a : Word)
  | stat (v : Status)
  | byte (b : Byte)
deriving DecidableEq, Repr

/-- The state. `stk` has its top first; `iolog` has its oldest event first. -/
structure State where
  /-- The general registers x[0]..x[15] (10_state.md R20). -/
  regs : Vector Byte 16
  /-- The program counter, counting words (10_state.md R25). -/
  pc : Word
  /-- The status register `s` (10_state.md R30). -/
  status : Status
  /-- The stack, top first (10_state.md R32). -/
  stk : List StackItem
  /-- Whether HLT has run (10_state.md R34). -/
  halted : Bool
  /-- The data space in canonical form (20_memory.md R51); see Machine/Memory.lean. -/
  dmem : List Host.Cell
  /-- The record of I/O accesses, oldest first (10_state.md R35). -/
  iolog : List IoEvent
  /-- The fault record (10_state.md R37). -/
  fault : Option Fault
  /-- The instruction space: the mapped addresses and their words (20_memory.md R54); no step changes it. -/
  imem : List (Nat × Word)
  /-- The parameters (00_scope.md R8); no step changes them. -/
  cfg : Config
  /-- The model's own: how many bytes IN has drawn. -/
  ioReads : Nat
  /-- The model's own: how many flag draws FLAG_MODEL = havoc has made. -/
  flagDraws : Nat
deriving DecidableEq, Repr

/-- The state right after reset (70_reset_and_hazards.md R260): the pc at RESET_PC, an empty stack, not halted, no fault, an empty log, no program loaded. DESIGN CHOICE, unsafe: the registers hold 0x00 (log entry 4), `s` holds 0000 (log entry 5) and no data byte is listed (log entry 6), where R260 leaves each unspecified. -/
def State.reset : State where
  regs := Vector.replicate 16 0x00
  pc := Config.default.resetPc
  status := 0b0000
  stk := []
  halted := false
  dmem := []
  iolog := []
  fault := none
  imem := []
  cfg := Config.default
  ioReads := 0
  flagDraws := 0

/-- The outcome of a step or of an instruction. -/
abbrev Result := Host.Outcome State Fault Refusal

end Sys2Proof.Machine
end

