-- ==== Sys2Proof/Machine/Memory.lean ====
section
/-! DEFINITION. The two memories as lists in canonical form: the data space (20_memory.md R51 to R53) and the instruction space (R54). Addresses are Nat keys below 2^16, strictly rising. -/

namespace Sys2Proof.Machine

/-- The data space as (address, byte) pairs. -/
abbrev Memory := List Host.Cell

/-- What a data address that is not listed reads as. DESIGN CHOICE, unsafe: the spec leaves launch memory unspecified (R52, 10_state.md R37; log entry 6). -/
def Memory.unlisted : Byte := 0x00

/-- The byte at an address. -/
def Memory.read : Memory → Nat → Byte
  | [], _ => Memory.unlisted
  | (k, v) :: rest, a => if k = a then v else Memory.read rest a

/-- Lists a byte in front of the cells above it, or nothing where the byte is what an unlisted address reads as. -/
def Memory.cons (a : Nat) (v : Byte) (rest : Memory) : Memory :=
  if v = Memory.unlisted then rest else (a, v) :: rest

/-- Stores one byte and keeps the canonical form. -/
def Memory.write : Memory → Nat → Byte → Memory
  | [], a, v => Memory.cons a v []
  | (k, x) :: rest, a, v =>
    if a < k then Memory.cons a v ((k, x) :: rest)
    else if a = k then Memory.cons a v rest
    else (k, x) :: Memory.write rest a v

/-- The canonical form from address `lo` on: rising addresses below 2^16, no byte that an unlisted address reads as. -/
def Memory.wfFrom : Nat → Memory → Bool
  | _, [] => true
  | lo, (k, v) :: rest => decide (lo ≤ k) && decide (k < 2 ^ 16) && v != Memory.unlisted && Memory.wfFrom (k + 1) rest

/-- The canonical form of the data space. -/
def Memory.wf (m : Memory) : Bool := Memory.wfFrom 0 m

/-- DMEM_MAPPED (R51): some range of the parameter holds the address. -/
def dataMapped (cfg : Config) (a : Word) : Bool :=
  cfg.dmemMapped.any fun r => decide (r.lo ≤ a.toNat) && decide (a.toNat ≤ r.hi)

/-- The instruction space as (address, word) pairs; an address that is not listed is not mapped. -/
abbrev IMem := List (Nat × Word)

/-- The word at an instruction address, or none where none is mapped (R54). -/
def IMem.read : IMem → Nat → Option Word
  | [], _ => none
  | (k, w) :: rest, a => if k = a then some w else IMem.read rest a

/-- Maps one word and keeps the addresses rising. -/
def IMem.place : IMem → Nat → Word → IMem
  | [], a, w => [(a, w)]
  | (k, x) :: rest, a, w =>
    if a < k then (a, w) :: (k, x) :: rest
    else if a = k then (a, w) :: rest
    else (k, x) :: IMem.place rest a w

/-- Maps words at consecutive addresses modulo 2^16 (70_reset_and_hazards.md R263, 10_state.md R27). -/
def IMem.placeAll (m : IMem) (a : Word) : List Word → IMem
  | [] => m
  | w :: rest => IMem.placeAll (IMem.place m a.toNat w) (a + 1) rest

/-- The canonical form from address `lo` on: rising addresses below 2^16. -/
def IMem.wfFrom : Nat → IMem → Bool
  | _, [] => true
  | lo, (k, _) :: rest => decide (lo ≤ k) && decide (k < 2 ^ 16) && IMem.wfFrom (k + 1) rest

/-- The canonical form of the instruction space. -/
def IMem.wf (m : IMem) : Bool := IMem.wfFrom 0 m

end Sys2Proof.Machine
end

