-- ==== Sys2Proof/Machine/Ops.lean ====
section
/-! DEFINITION. The named operations on the state: the updates of single fields, registers (10_state.md R20), the data space (20_memory.md R52, R53), the stack primitives (10_state.md R33), the I/O primitives (20_memory.md R55), the pc's advance (10_state.md R26) and model faults (00_scope.md R13). The hardware has no exception to take and none to return from (60_exceptions.md R240, R248, R249): raising a model fault is the one operation that stands in that place. -/

namespace Sys2Proof.Machine

/-! ### Updates of one field -/

/-- `pc <- v`. -/
def State.setPc (s : State) (v : Word) : State := { s with pc := v }

/-- `s <- v`. -/
def State.setStatus (s : State) (v : Status) : State := { s with status := v }

/-- Replaces the stack. -/
def State.setStk (s : State) (l : List StackItem) : State := { s with stk := l }

/-- `halted <- true` (10_state.md R34). -/
def State.setHalted (s : State) : State := { s with halted := true }

/-- Replaces the data space. -/
def State.setDmem (s : State) (m : Memory) : State := { s with dmem := m }

/-- Counts one flag draw. -/
def State.countFlagDraw (s : State) : State := { s with flagDraws := s.flagDraws + 1 }

/-- Appends one event to the log (20_memory.md R55). -/
def State.log (s : State) (e : IoEvent) : State := { s with iolog := s.iolog ++ [e] }

/-- Counts one byte drawn by IN. -/
def State.countIoRead (s : State) : State := { s with ioReads := s.ioReads + 1 }

/-- The state with a fault recorded (60_exceptions.md R242): nothing else changes. -/
def State.recordFault (s : State) (f : Fault) : State := { s with fault := some f }

/-- Loads words at consecutive instruction addresses from `a` on (70_reset_and_hazards.md R263). -/
def State.load (s : State) (a : Word) (words : List Word) : State :=
  { s with imem := IMem.placeAll s.imem a words }

/-! ### Registers -/

/-- `x[r]` (10_state.md R20). -/
def State.readReg (s : State) (r : RegNum) : Byte := s.regs[r.toNat]'(r.isLt)

/-- `x[r] <- v` (10_state.md R20). -/
def State.writeReg (s : State) (r : RegNum) (v : Byte) : State :=
  { s with regs := s.regs.set r.toNat v r.isLt }

/-! ### The pc -/

/-- `pc <- pc + n` modulo 2^16, the sequential advance (10_state.md R26, R27). -/
def State.advance (s : State) (n : Word) : State := s.setPc (s.pc + n)

/-! ### Model faults -/

/-- `raise ModelFault(f)` (00_scope.md R13): the step ends and no state changes. -/
def raise (f : Fault) : Result := .fault f

/-- Goes on with a primitive's value, or raises its fault (60_exceptions.md R242). -/
def orRaise {α : Type} (r : Except Fault α) (k : α → State) : Result :=
  match r with
  | .ok v => .next (k v)
  | .error f => raise f

/-! ### The data space -/

/-- The byte at a data address, mapped or not. -/
def State.dataByte (s : State) (a : Word) : Byte := Memory.read s.dmem a.toNat

/-- `MemRead(a, 1)` (20_memory.md R52). -/
def State.memRead (s : State) (a : Word) : Except Fault Byte :=
  if dataMapped s.cfg a then .ok (s.dataByte a) else .error (.unmappedData a)

/-- `MemWrite(a, 1, v)` (20_memory.md R53). -/
def State.memWrite (s : State) (a : Word) (v : Byte) : Except Fault State :=
  if dataMapped s.cfg a then .ok (s.setDmem (Memory.write s.dmem a.toNat v)) else .error (.unmappedData a)

/-! ### The stack -/

/-- `Push(item)` (10_state.md R33). -/
def State.push (s : State) (item : StackItem) : Except Fault State :=
  if s.cfg.stackDepth ≤ s.stk.length then .error .stackOverflow else .ok (s.setStk (item :: s.stk))

/-- `Pop(kind)` (10_state.md R33); `take` gives the payload of an item of the kind asked for. -/
def State.pop {α : Type} (s : State) (take : StackItem → Option α) : Except Fault (α × State) :=
  match s.stk with
  | [] => .error .stackUnderflow
  | top :: rest =>
    match take top with
    | some v => .ok (v, s.setStk rest)
    | none => .error .stackKindMismatch

/-- The payload of a `Ret` item. -/
def StackItem.asRet : StackItem → Option Word
  | .ret a => some a
  | .stat _ => none
  | .byte _ => none

/-- The payload of a `Stat` item. -/
def StackItem.asStat : StackItem → Option Status
  | .ret _ => none
  | .stat v => some v
  | .byte _ => none

/-- The payload of a `Byte` item. -/
def StackItem.asByte : StackItem → Option Byte
  | .ret _ => none
  | .stat _ => none
  | .byte b => some b

/-! ### The I/O space -/

/-- An operation of an environment. -/
def applyEnvOp : EnvOp → Nat → Nat → Nat
  | .add, a, b => a + b
  | .sub, a, b => a - b
  | .mul, a, b => a * b
  | .div, a, b => a / b
  | .mod, a, b => a % b
  | .pow, a, b => a ^ b
  | .and, a, b => a &&& b
  | .or, a, b => a ||| b
  | .xor, a, b => a ^^^ b

/-- The value of an environment's expression, for what it keeps and one access. -/
def evalEnv (state : Nat) (port value draw : Byte) : EnvExpr → Nat
  | .lit n => n
  | .state => state
  | .port => port.toNat
  | .value => value.toNat
  | .draw => draw.toNat
  | .op o a b => applyEnvOp o (evalEnv state port value draw a) (evalEnv state port value draw b)
  | .ifLess a b yes no =>
    if evalEnv state port value draw a < evalEnv state port value draw b then evalEnv state port value draw yes
    else evalEnv state port value draw no

/-- What the environment keeps after one more access: an answer it has given, or a byte handed to it (20_memory.md R55). No draw is made for it. -/
def envNext (env : Environment) (state : Nat) : IoEvent → Nat
  | .input port value => evalEnv state port value 0 env.afterRead
  | .output port value => evalEnv state port value 0 env.afterWrite

/-- What the environment keeps after all the accesses of `s`: the log is all that it has seen. -/
def State.envState (s : State) : Nat := s.iolog.foldl (envNext s.cfg.environment) s.cfg.environment.start

/-- What the environment answers the next read with (20_memory.md R55), where `draw` is the free byte of that read (log entry 11). -/
def State.ioAnswer (s : State) (port : Byte) : Byte :=
  BitVec.ofNat 8 (evalEnv s.envState port 0 (Config.freeInput s.ioReads s.iolog port) s.cfg.environment.answer)

/-- `IoRead(port)` (20_memory.md R55): the answer, and the state with the access logged. -/
def State.ioRead (s : State) (port : Byte) : Byte × State :=
  (s.ioAnswer port, (s.log (.input port (s.ioAnswer port))).countIoRead)

/-- `IoWrite(port, v)` (20_memory.md R55): the access is logged, and so handed to the environment (`State.envState`). -/
def State.ioWrite (s : State) (port v : Byte) : State := s.log (.output port v)

end Sys2Proof.Machine
end

