-- ==== Sys2Proof/Syntax.lean ====
section
/-! DEFINITION. The syntax of Type R-I: the 74 instructions of 00_scope.md R2, one constructor each in the order of spec/opcode_table.json, and the condition selectors of R14. IN is `inp`, since `in` is a word of Lean's own. -/

namespace Sys2Proof

/-- The conditions of 00_scope.md R14, in the order of their selectors 000 to 110. -/
inductive Cond where
  | always
  | c
  | nc
  | z
  | nz
  | n
  | nn
deriving DecidableEq, Repr

/-- The instructions of 00_scope.md R2. Every field holds the bits of its operand as encoded (30_encoding.md R101); `a` of Type A is the second word. -/
inductive Instr where
  -- Type R-I (40_type_r-i.md)
  /-- R121. -/
  | ldi (rd : RegNum) (i : Byte)
  /-- R122. -/
  | ani (rd : RegNum) (i : Byte)
  /-- R123. -/
  | ori (rd : RegNum) (i : Byte)
  /-- R124. -/
  | xoi (rd : RegNum) (i : Byte)
  /-- R125. -/
  | adi (rd : RegNum) (i : Byte)
  /-- R126. -/
  | aci (rd : RegNum) (i : Byte)
  /-- R127. -/
  | cpi (rd : RegNum) (i : Byte)
  -- Type R-IO (41_type_r-io.md)
  /-- R131. -/
  | inp (rd : RegNum) (io : Byte)
  /-- R132. -/
  | out (rs : RegNum) (io : Byte)
  -- Type R-R (42_type_r-r.md)
  /-- R136. -/
  | mov (rd rs : RegNum)
  /-- R137. -/
  | and (rd rs : RegNum)
  /-- R138. -/
  | or (rd rs : RegNum)
  /-- R139. -/
  | xor (rd rs : RegNum)
  /-- R140. -/
  | add (rd rs : RegNum)
  /-- R141. -/
  | adc (rd rs : RegNum)
  /-- R142. -/
  | cmp (rd rs : RegNum)
  /-- R143. -/
  | sub (rd rs : RegNum)
  /-- R144. -/
  | sbb (rd rs : RegNum)
  -- Type R-P, R-P-K, P-I (43_type_r-p_r-p-k_p-i.md)
  /-- R151. -/
  | sri (rs : RegNum) (p : PairNum)
  /-- R152. -/
  | srd (rs : RegNum) (p : PairNum)
  /-- R153. -/
  | lri (rd : RegNum) (p : PairNum)
  /-- R154. -/
  | lrd (rd : RegNum) (p : PairNum)
  /-- R156. -/
  | str (rs : RegNum) (p : PairNum) (k : BitVec 5)
  /-- R157. -/
  | ldr (rd : RegNum) (p : PairNum) (k : BitVec 5)
  /-- R158. -/
  | api (p : PairNum) (i : BitVec 9)
  -- Type Branch (44_type_branch.md)
  /-- R166. -/
  | br (a : BitVec 9)
  /-- R167. -/
  | bc (a : BitVec 9)
  /-- R168. -/
  | bnc (a : BitVec 9)
  /-- R169. -/
  | bz (a : BitVec 9)
  /-- R170. -/
  | bnz (a : BitVec 9)
  /-- R171. -/
  | bn (a : BitVec 9)
  /-- R172. -/
  | bnn (a : BitVec 9)
  -- Type R (45_type_r.md)
  /-- R181. -/
  | sll (rd : RegNum)
  /-- R182. -/
  | srl (rd : RegNum)
  /-- R183. -/
  | sra (rd : RegNum)
  /-- R184. -/
  | rlc (rd : RegNum)
  /-- R185. -/
  | rrc (rd : RegNum)
  /-- R186. -/
  | not (rd : RegNum)
  /-- R187. -/
  | pop (rd : RegNum)
  -- Type P (46_type_p.md)
  /-- R191. -/
  | jmpi (p : PairNum)
  /-- R192. -/
  | jci (p : PairNum)
  /-- R193. -/
  | jnci (p : PairNum)
  /-- R194. -/
  | jzi (p : PairNum)
  /-- R195. -/
  | jnzi (p : PairNum)
  /-- R196. -/
  | jni (p : PairNum)
  /-- R197. -/
  | jnni (p : PairNum)
  -- Type A (47_type_a.md)
  /-- R201. -/
  | jmp (a : Word)
  /-- R202. -/
  | jc (a : Word)
  /-- R203. -/
  | jnc (a : Word)
  /-- R204. -/
  | jz (a : Word)
  /-- R205. -/
  | jnz (a : Word)
  /-- R206. -/
  | jn (a : Word)
  /-- R207. -/
  | jnn (a : Word)
  /-- R209. -/
  | call (a : Word)
  /-- R210. -/
  | cc (a : Word)
  /-- R211. -/
  | cnc (a : Word)
  /-- R212. -/
  | cz (a : Word)
  /-- R213. -/
  | cnz (a : Word)
  /-- R214. -/
  | cn (a : Word)
  /-- R215. -/
  | cnn (a : Word)
  -- Type No Args (48_type_no_args.md)
  /-- R221. -/
  | ret
  /-- R222. -/
  | rc
  /-- R223. -/
  | rnc
  /-- R224. -/
  | rz
  /-- R225. -/
  | rnz
  /-- R226. -/
  | rn
  /-- R227. -/
  | rnn
  /-- R228. -/
  | pus
  /-- R229. -/
  | pos
  /-- R230. -/
  | nop
  /-- R231. -/
  | hlt
  -- Type M and Type P-P (49_type_m_p-p.md)
  /-- R236. -/
  | ssr (m : BitVec 4)
  /-- R237. -/
  | csr (m : BitVec 4)
  /-- R238. -/
  | mvp (pd ps : PairNum)
deriving DecidableEq, Repr

/-- The mnemonic of an instruction, as spec/opcode_table.json spells it. -/
def Instr.mnemonic : Instr → String
  | .ldi _ _ => "LDI"
  | .ani _ _ => "ANI"
  | .ori _ _ => "ORI"
  | .xoi _ _ => "XOI"
  | .adi _ _ => "ADI"
  | .aci _ _ => "ACI"
  | .cpi _ _ => "CPI"
  | .inp _ _ => "IN"
  | .out _ _ => "OUT"
  | .mov _ _ => "MOV"
  | .and _ _ => "AND"
  | .or _ _ => "OR"
  | .xor _ _ => "XOR"
  | .add _ _ => "ADD"
  | .adc _ _ => "ADC"
  | .cmp _ _ => "CMP"
  | .sub _ _ => "SUB"
  | .sbb _ _ => "SBB"
  | .sri _ _ => "SRI"
  | .srd _ _ => "SRD"
  | .lri _ _ => "LRI"
  | .lrd _ _ => "LRD"
  | .str _ _ _ => "STR"
  | .ldr _ _ _ => "LDR"
  | .api _ _ => "API"
  | .br _ => "BR"
  | .bc _ => "BC"
  | .bnc _ => "BNC"
  | .bz _ => "BZ"
  | .bnz _ => "BNZ"
  | .bn _ => "BN"
  | .bnn _ => "BNN"
  | .sll _ => "SLL"
  | .srl _ => "SRL"
  | .sra _ => "SRA"
  | .rlc _ => "RLC"
  | .rrc _ => "RRC"
  | .not _ => "NOT"
  | .pop _ => "POP"
  | .jmpi _ => "JMPI"
  | .jci _ => "JCI"
  | .jnci _ => "JNCI"
  | .jzi _ => "JZI"
  | .jnzi _ => "JNZI"
  | .jni _ => "JNI"
  | .jnni _ => "JNNI"
  | .jmp _ => "JMP"
  | .jc _ => "JC"
  | .jnc _ => "JNC"
  | .jz _ => "JZ"
  | .jnz _ => "JNZ"
  | .jn _ => "JN"
  | .jnn _ => "JNN"
  | .call _ => "CALL"
  | .cc _ => "CC"
  | .cnc _ => "CNC"
  | .cz _ => "CZ"
  | .cnz _ => "CNZ"
  | .cn _ => "CN"
  | .cnn _ => "CNN"
  | .ret => "RET"
  | .rc => "RC"
  | .rnc => "RNC"
  | .rz => "RZ"
  | .rnz => "RNZ"
  | .rn => "RN"
  | .rnn => "RNN"
  | .pus => "PUS"
  | .pos => "POS"
  | .nop => "NOP"
  | .hlt => "HLT"
  | .ssr _ => "SSR"
  | .csr _ => "CSR"
  | .mvp _ _ => "MVP"

end Sys2Proof
end

