-- ==== Sys2Proof/Machine/Flags.lean ====
section
/-! DEFINITION. Flags: the adder (00_scope.md R15), the bits of `s` (10_state.md R30), the condition table (00_scope.md R14) and the flag table of 10_state.md R29 under both values of FLAG_MODEL. -/

namespace Sys2Proof.Machine

/-- `Add9(a, b, cin)` (00_scope.md R15). -/
def add9 (a b : Byte) (cin : Bool) : BitVec 9 :=
  a.setWidth 9 + b.setWidth 9 + (BitVec.ofBool cin).setWidth 9

/-- The 8-bit result of an adder value (00_scope.md R15). -/
def sumByte (t : BitVec 9) : Byte := t.extractLsb' 0 8

/-- The carry out of an adder value, its bit 8 (00_scope.md R15). -/
def carryOut (t : BitVec 9) : Bool := t.getLsbD 8

/-- Bit `j` of `s` with the value `b`; the other bits as in `v`. -/
def putBit (v : Status) (j : Fin 4) (b : Bool) : Status :=
  if b then v ||| (1#4 <<< j.val) else v &&& ~~~(1#4 <<< j.val)

/-- A flag, read from its bit of `s` (10_state.md R30). -/
def State.flag (s : State) (f : Flag) : Bool := s.status.getLsbD (s.cfg.flagBit f)

/-- A flag, written to its bit of `s` (10_state.md R30). -/
def State.putFlag (s : State) (f : Flag) (b : Bool) : State :=
  s.setStatus (putBit s.status (s.cfg.flagBit f) b)

/-- A flag written where a value is given, else left as it is. -/
def State.putFlag? (s : State) (f : Flag) : Option Bool → State
  | some b => s.putFlag f b
  | none => s

/-- `cond(ccc)` (00_scope.md R14). -/
def State.cond (s : State) : Cond → Bool
  | .always => true
  | .c => s.flag .c
  | .nc => !s.flag .c
  | .z => s.flag .z
  | .nz => !s.flag .z
  | .n => s.flag .n
  | .nn => !s.flag .n

/-- A row of the table of 10_state.md R29: the value each flag takes, none for "unchanged". `cStated` marks the rows whose C the source states (RLC, RRC). -/
structure FlagRow where
  c : Option Bool
  z : Option Bool
  n : Option Bool
  cStated : Bool
deriving DecidableEq, Repr

/-- "unchanged" in all three columns (R29). -/
def keepRow : FlagRow := ⟨none, none, none, false⟩

/-- `C <- t[8]`, `Z <- (result == 0)`, `N <- result[7]` for an adder value (R29). -/
def sumRow (t : BitVec 9) : FlagRow :=
  ⟨some (carryOut t), some (sumByte t == 0), some (sumByte t).msb, false⟩

/-- C unchanged, Z and N from the result (R29, the logic rows). -/
def logicRow (result : Byte) : FlagRow := ⟨none, some (result == 0), some result.msb, false⟩

/-- C from the bit shifted out, Z and N from the result (R29, SLL, SRL, SRA). -/
def shiftRow (out : Bool) (result : Byte) : FlagRow := ⟨some out, some (result == 0), some result.msb, false⟩

/-- As `shiftRow`, with the C that the source states (R29, RLC, RRC). -/
def rotateRow (out : Bool) (result : Byte) : FlagRow := ⟨some out, some (result == 0), some result.msb, true⟩

/-- Applies a row under FLAG_MODEL = conventional (R29). -/
def State.conventionalFlags (s : State) (row : FlagRow) : State :=
  ((s.putFlag? .c row.c).putFlag? .z row.z).putFlag? .n row.n

/-- Applies a row under FLAG_MODEL = havoc (R29): C, Z and N each take a free value (log entry 12), but a C that the source states. -/
def State.havocFlags (s : State) (row : FlagRow) : State :=
  let c := if row.cStated then row.c else some (Config.freeFlag s.flagDraws .c)
  let z := some (Config.freeFlag s.flagDraws .z)
  let n := some (Config.freeFlag s.flagDraws .n)
  (((s.putFlag? .c c).putFlag? .z z).putFlag? .n n).countFlagDraw

/-- The flag writes of an instruction that the table of R29 lists with a flag, or that writes a register or a pair. The instructions that do neither, and those whose `s` the source states (POS, SSR, CSR), do not call it. -/
def State.writeFlags (s : State) (row : FlagRow) : State :=
  match s.cfg.flagModel with
  | .conventional => s.conventionalFlags row
  | .havoc => s.havocFlags row

end Sys2Proof.Machine
end

