-- ==== Sys2Proof/Machine/Operands.lean ====
section
/-! DEFINITION. Operand forms: register pairs (10_state.md R23, R24), the widening of offsets and immediates (30_encoding.md R101), and the address of Type R-P-K (43_type_r-p_r-p-k_p-i.md R155). -/

namespace Sys2Proof.Machine

/-- Register `2n` of pair n (10_state.md R23). -/
def evenReg (p : PairNum) : RegNum := p ++ 0b0#1

/-- Register `2n + 1` of pair n (10_state.md R23). -/
def oddReg (p : PairNum) : RegNum := p ++ 0b1#1

/-- The register that is the pair's high byte (10_state.md R24). -/
def highReg (cfg : Config) (p : PairNum) : RegNum :=
  match cfg.pairHigh with
  | .odd => oddReg p
  | .even => evenReg p

/-- The register that is the pair's low byte (10_state.md R24). -/
def lowReg (cfg : Config) (p : PairNum) : RegNum :=
  match cfg.pairHigh with
  | .odd => evenReg p
  | .even => oddReg p

/-- `P[p]` (10_state.md R24). -/
def State.readPair (s : State) (p : PairNum) : Word :=
  s.readReg (highReg s.cfg p) ++ s.readReg (lowReg s.cfg p)

/-- `P[p] <- v` (10_state.md R24). -/
def State.writePair (s : State) (p : PairNum) (v : Word) : State :=
  (s.writeReg (highReg s.cfg p) (v.extractLsb' 8 8)).writeReg (lowReg s.cfg p) (v.extractLsb' 0 8)

/-- Whether a register is one of the two of a pair (43 R153). -/
def inPair (r : RegNum) (p : PairNum) : Bool := r == evenReg p || r == oddReg p

/-- A field widened to 16 bits (30_encoding.md R101); `refuse_top_bit` raises AmbiguousField where the top bit is 1. -/
def widen {n : Nat} (ext : Extension) (v : BitVec n) : Except Fault Word :=
  match ext with
  | .signed => .ok (v.signExtend 16)
  | .unsigned => .ok (v.setWidth 16)
  | .refuseTopBit => if v.msb then .error .ambiguousField else .ok (v.setWidth 16)

/-- The address of STR and LDR: `P[p] + K` modulo 2^16 (43 R155). -/
def State.offsetAddress (s : State) (p : PairNum) (k : BitVec 5) : Except Fault Word :=
  match widen s.cfg.kOffset k with
  | .ok offset => .ok (s.readPair p + offset)
  | .error f => .error f

end Sys2Proof.Machine
end

