-- ==== Sys2Proof/Machine/Shapes.lean ====
section
/-! DEFINITION. The shapes that the instructions share: a result written with its flags, a compare, a load or store through a pair, a conditional transfer, a call, a return. The fault checks of each stand in the order of 60_exceptions.md R245. -/

namespace Sys2Proof.Machine

/-- `x[rd] <- v` with a row of flags, then `pc <- pc + 1`: Type R-I, Type R-R, Type R (40 R120, 42 R135, 45 R180). -/
def writeResult (rd : RegNum) (v : Byte) (row : FlagRow) (s : State) : Result :=
  .next (((s.writeReg rd v).writeFlags row).advance 1)

/-- An adder value written to rd with its flags (10_state.md R29, the add and subtract rows). -/
def writeSum (rd : RegNum) (t : BitVec 9) (s : State) : Result :=
  writeResult rd (sumByte t) (sumRow t) s

/-- A logic result written to rd with its flags (10_state.md R29, the logic row). -/
def writeLogic (rd : RegNum) (v : Byte) (s : State) : Result :=
  writeResult rd v (logicRow v) s

/-- The flags of an adder value, no register written (40 R127, 42 R142). -/
def compareSum (t : BitVec 9) (s : State) : Result :=
  .next ((s.writeFlags (sumRow t)).advance 1)

/-- SRI and SRD (43 R150): store x[rs] at P[p], then add `delta` to the pair. -/
def storePost (rs : RegNum) (p : PairNum) (delta : Word) (s : State) : Result :=
  orRaise (s.memWrite (s.readPair p) (s.readReg rs)) fun t =>
    ((t.writePair p (s.readPair p + delta)).writeFlags keepRow).advance 1

/-- LRI and LRD (43 R150, R153): load x[rd] from P[p], then add `delta` to the pair; RegisterOverlap where rd is half of the pair. -/
def loadPost (rd : RegNum) (p : PairNum) (delta : Word) (s : State) : Result :=
  if inPair rd p then raise .registerOverlap
  else
    orRaise (s.memRead (s.readPair p)) fun v =>
      (((s.writeReg rd v).writePair p (s.readPair p + delta)).writeFlags keepRow).advance 1

/-- Where a conditional transfer of one or two words goes: to `target` where the condition holds, else past its `len` words (60_exceptions.md R245 (7)). -/
def transfer (cond : Cond) (target : Word) (len : Word) (s : State) : Result :=
  if s.cond cond then .next (s.setPc target) else .next (s.advance len)

/-- Type Branch (44 R165). -/
def relativeBranch (cond : Cond) (a : BitVec 9) (s : State) : Result :=
  match widen s.cfg.brOffset a with
  | .ok offset => transfer cond (s.pc + s.cfg.brBase.setWidth 16 + offset) 1 s
  | .error f => raise f

/-- Type P (46 R190). -/
def indirectJump (cond : Cond) (p : PairNum) (s : State) : Result :=
  transfer cond (s.readPair p) 1 s

/-- Type A jumps (47 R200). -/
def absoluteJump (cond : Cond) (a : Word) (s : State) : Result :=
  transfer cond a 2 s

/-- Type A calls (47 R208): where the condition holds, push `Ret(pc + 2)` and go to `a`. -/
def absoluteCall (cond : Cond) (a : Word) (s : State) : Result :=
  if s.cond cond then orRaise (s.push (.ret (s.pc + 2))) fun t => t.setPc a
  else .next (s.advance 2)

/-- The returns (48 R220): where the condition holds, go to the popped address. -/
def subroutineReturn (cond : Cond) (s : State) : Result :=
  if s.cond cond then orRaise (s.pop StackItem.asRet) fun popped => popped.2.setPc popped.1
  else .next (s.advance 1)

end Sys2Proof.Machine
end

