-- ==== Sys2Proof/Machine/Control.lean ====
section
/-! DEFINITION. The transfers of control: Type Branch (44_type_branch.md R165 to R172), Type P (46_type_p.md R190 to R197), Type A (47_type_a.md R200 to R215) and the seven returns (48_type_no_args.md R220 to R227). -/

namespace Sys2Proof.Machine

/-! ### Type Branch -/

/-- `BR a` (R166). -/
def execBr (a : BitVec 9) (s : State) : Result :=
  relativeBranch .always a s

/-- `BC a` (R167). -/
def execBc (a : BitVec 9) (s : State) : Result :=
  relativeBranch .c a s

/-- `BNC a` (R168). -/
def execBnc (a : BitVec 9) (s : State) : Result :=
  relativeBranch .nc a s

/-- `BZ a` (R169). -/
def execBz (a : BitVec 9) (s : State) : Result :=
  relativeBranch .z a s

/-- `BNZ a` (R170). -/
def execBnz (a : BitVec 9) (s : State) : Result :=
  relativeBranch .nz a s

/-- `BN a` (R171). -/
def execBn (a : BitVec 9) (s : State) : Result :=
  relativeBranch .n a s

/-- `BNN a` (R172). -/
def execBnn (a : BitVec 9) (s : State) : Result :=
  relativeBranch .nn a s

/-! ### Type P -/

/-- `JMPI p` (R191). -/
def execJmpi (p : PairNum) (s : State) : Result :=
  indirectJump .always p s

/-- `JCI p` (R192). -/
def execJci (p : PairNum) (s : State) : Result :=
  indirectJump .c p s

/-- `JNCI p` (R193). -/
def execJnci (p : PairNum) (s : State) : Result :=
  indirectJump .nc p s

/-- `JZI p` (R194). -/
def execJzi (p : PairNum) (s : State) : Result :=
  indirectJump .z p s

/-- `JNZI p` (R195). -/
def execJnzi (p : PairNum) (s : State) : Result :=
  indirectJump .nz p s

/-- `JNI p` (R196). -/
def execJni (p : PairNum) (s : State) : Result :=
  indirectJump .n p s

/-- `JNNI p` (R197). -/
def execJnni (p : PairNum) (s : State) : Result :=
  indirectJump .nn p s

/-! ### Type A, jumps -/

/-- `JMP a` (R201). -/
def execJmp (a : Word) (s : State) : Result :=
  absoluteJump .always a s

/-- `JC a` (R202). -/
def execJc (a : Word) (s : State) : Result :=
  absoluteJump .c a s

/-- `JNC a` (R203). -/
def execJnc (a : Word) (s : State) : Result :=
  absoluteJump .nc a s

/-- `JZ a` (R204). -/
def execJz (a : Word) (s : State) : Result :=
  absoluteJump .z a s

/-- `JNZ a` (R205). -/
def execJnz (a : Word) (s : State) : Result :=
  absoluteJump .nz a s

/-- `JN a` (R206). -/
def execJn (a : Word) (s : State) : Result :=
  absoluteJump .n a s

/-- `JNN a` (R207). -/
def execJnn (a : Word) (s : State) : Result :=
  absoluteJump .nn a s

/-! ### Type A, calls -/

/-- `CALL a` (R209). -/
def execCall (a : Word) (s : State) : Result :=
  absoluteCall .always a s

/-- `CC a` (R210). -/
def execCc (a : Word) (s : State) : Result :=
  absoluteCall .c a s

/-- `CNC a` (R211). -/
def execCnc (a : Word) (s : State) : Result :=
  absoluteCall .nc a s

/-- `CZ a` (R212). -/
def execCz (a : Word) (s : State) : Result :=
  absoluteCall .z a s

/-- `CNZ a` (R213). -/
def execCnz (a : Word) (s : State) : Result :=
  absoluteCall .nz a s

/-- `CN a` (R214). -/
def execCn (a : Word) (s : State) : Result :=
  absoluteCall .n a s

/-- `CNN a` (R215). -/
def execCnn (a : Word) (s : State) : Result :=
  absoluteCall .nn a s

/-! ### Returns -/

/-- `RET` (R221). -/
def execRet (s : State) : Result :=
  subroutineReturn .always s

/-- `RC` (R222). -/
def execRc (s : State) : Result :=
  subroutineReturn .c s

/-- `RNC` (R223). -/
def execRnc (s : State) : Result :=
  subroutineReturn .nc s

/-- `RZ` (R224). -/
def execRz (s : State) : Result :=
  subroutineReturn .z s

/-- `RNZ` (R225). -/
def execRnz (s : State) : Result :=
  subroutineReturn .nz s

/-- `RN` (R226). -/
def execRn (s : State) : Result :=
  subroutineReturn .n s

/-- `RNN` (R227). -/
def execRnn (s : State) : Result :=
  subroutineReturn .nn s

end Sys2Proof.Machine
end

