-- ==== Sys2Proof/Machine/System.lean ====
section
/-! DEFINITION. The rest of Type No Args: PUS, POS, NOP, HLT (48_type_no_args.md R228 to R231); Type M: SSR, CSR (49_type_m_p-p.md R235 to R237); Type P-P: MVP (R238). -/

namespace Sys2Proof.Machine

/-- `PUS` (R228): push `Stat(s)`. -/
def execPus (s : State) : Result :=
  orRaise (s.push (.stat s.status)) fun t => t.advance 1

/-- `POS` (R229): pop a `Stat` item into `s`. -/
def execPos (s : State) : Result :=
  orRaise (s.pop StackItem.asStat) fun popped => (popped.2.setStatus popped.1).advance 1

/-- `NOP` (R230). -/
def execNop (s : State) : Result := .next (s.advance 1)

/-- `HLT` (R231): `halted <- true`, `pc <- pc + 1`. -/
def execHlt (s : State) : Result := .next (s.setHalted.advance 1)

/-- `SSR m` (R236): `s <- s OR m`. -/
def execSsr (m : BitVec 4) (s : State) : Result :=
  .next ((s.setStatus (s.status ||| m)).advance 1)

/-- `CSR m` (R237): `s <- s AND m`, as printed. -/
def execCsr (m : BitVec 4) (s : State) : Result :=
  .next ((s.setStatus (s.status &&& m)).advance 1)

/-- `MVP pd, ps` (R238): `P[pd] <- P[ps]`. -/
def execMvp (pd ps : PairNum) (s : State) : Result :=
  .next (((s.writePair pd (s.readPair ps)).writeFlags keepRow).advance 1)

end Sys2Proof.Machine
end

