-- ==== Sys2Proof/Machine/TypeR.lean ====
section
/-! DEFINITION. Type R: shifts, rotates, NOT and POP (45_type_r.md R180 to R187). -/

namespace Sys2Proof.Machine

/-- `{v[6:0], low}`: one place to the left (45 R181, R184). -/
def shiftLeftIn (v : Byte) (low : Bool) : Byte := v.extractLsb' 0 7 ++ BitVec.ofBool low

/-- `{high, v[7:1]}`: one place to the right (45 R182, R183, R185). -/
def shiftRightIn (high : Bool) (v : Byte) : Byte := BitVec.ofBool high ++ v.extractLsb' 1 7

/-- `SLL rd` (R181). -/
def execSll (rd : RegNum) (s : State) : Result :=
  let old := s.readReg rd
  let result := shiftLeftIn old false
  writeResult rd result (shiftRow (old.getLsbD 7) result) s

/-- `SRL rd` (R182). -/
def execSrl (rd : RegNum) (s : State) : Result :=
  let old := s.readReg rd
  let result := shiftRightIn false old
  writeResult rd result (shiftRow (old.getLsbD 0) result) s

/-- `SRA rd` (R183). -/
def execSra (rd : RegNum) (s : State) : Result :=
  let old := s.readReg rd
  let result := shiftRightIn (old.getLsbD 7) old
  writeResult rd result (shiftRow (old.getLsbD 0) result) s

/-- `RLC rd` (R184): `{c,rd} <= {rd,c}`. -/
def execRlc (rd : RegNum) (s : State) : Result :=
  let old := s.readReg rd
  let result := shiftLeftIn old (s.flag .c)
  writeResult rd result (rotateRow (old.getLsbD 7) result) s

/-- `RRC rd` (R185): `{rd,c} <= {c,rd}`. -/
def execRrc (rd : RegNum) (s : State) : Result :=
  let old := s.readReg rd
  let result := shiftRightIn (s.flag .c) old
  writeResult rd result (rotateRow (old.getLsbD 0) result) s

/-- `NOT rd` (R186). -/
def execNot (rd : RegNum) (s : State) : Result :=
  writeLogic rd (~~~s.readReg rd) s

/-- `POP rd` (R187): a `Byte` item to rd. -/
def execPop (rd : RegNum) (s : State) : Result :=
  orRaise (s.pop StackItem.asByte) fun popped =>
    ((popped.2.writeReg rd popped.1).writeFlags keepRow).advance 1

end Sys2Proof.Machine
end

