-- ==== Sys2Proof/Machine/TypeRI.lean ====
section
/-! DEFINITION. Type R-I: register and immediate (40_type_r-i.md R120 to R127), and Type R-IO: port input and output (41_type_r-io.md R130 to R132). -/

namespace Sys2Proof.Machine

/-- `LDI rd, i` (R121). -/
def execLdi (rd : RegNum) (i : Byte) (s : State) : Result :=
  writeResult rd i keepRow s

/-- `ANI rd, i` (R122). -/
def execAni (rd : RegNum) (i : Byte) (s : State) : Result :=
  writeLogic rd (s.readReg rd &&& i) s

/-- `ORI rd, i` (R123). -/
def execOri (rd : RegNum) (i : Byte) (s : State) : Result :=
  writeLogic rd (s.readReg rd ||| i) s

/-- `XOI rd, i` (R124). -/
def execXoi (rd : RegNum) (i : Byte) (s : State) : Result :=
  writeLogic rd (s.readReg rd ^^^ i) s

/-- `ADI rd, i` (R125). -/
def execAdi (rd : RegNum) (i : Byte) (s : State) : Result :=
  writeSum rd (add9 (s.readReg rd) i false) s

/-- `ACI rd, i` (R126). -/
def execAci (rd : RegNum) (i : Byte) (s : State) : Result :=
  writeSum rd (add9 (s.readReg rd) i (s.flag .c)) s

/-- `CPI rd, i` (R127): the subtraction of SUB, flags only. -/
def execCpi (rd : RegNum) (i : Byte) (s : State) : Result :=
  compareSum (add9 (s.readReg rd) (~~~i) true) s

/-- `IN rd, io` (R131). -/
def execInp (rd : RegNum) (io : Byte) (s : State) : Result :=
  writeResult rd (s.ioRead io).1 keepRow (s.ioRead io).2

/-- `OUT rs, io` (R132). -/
def execOut (rs : RegNum) (io : Byte) (s : State) : Result :=
  .next ((s.ioWrite io (s.readReg rs)).advance 1)

end Sys2Proof.Machine
end

