-- ==== Sys2Proof/Machine/TypeRP.lean ====
section
/-! DEFINITION. Type R-P, Type R-P-K and Type P-I: loads, stores and the pair addition (43_type_r-p_r-p-k_p-i.md R150 to R158). -/

namespace Sys2Proof.Machine

/-- `SRI rs, p` (R151). -/
def execSri (rs : RegNum) (p : PairNum) (s : State) : Result :=
  storePost rs p 1 s

/-- `SRD rs, p` (R152). -/
def execSrd (rs : RegNum) (p : PairNum) (s : State) : Result :=
  storePost rs p (-1) s

/-- `LRI rd, p` (R153). -/
def execLri (rd : RegNum) (p : PairNum) (s : State) : Result :=
  loadPost rd p 1 s

/-- `LRD rd, p` (R154). -/
def execLrd (rd : RegNum) (p : PairNum) (s : State) : Result :=
  loadPost rd p (-1) s

/-- `STR rs, p, k` (R156). -/
def execStr (rs : RegNum) (p : PairNum) (k : BitVec 5) (s : State) : Result :=
  match s.offsetAddress p k with
  | .ok addr => orRaise (s.memWrite addr (s.readReg rs)) fun t => t.advance 1
  | .error f => raise f

/-- `LDR rd, p, k` (R157). -/
def execLdr (rd : RegNum) (p : PairNum) (k : BitVec 5) (s : State) : Result :=
  match s.offsetAddress p k with
  | .ok addr => orRaise (s.memRead addr) fun v => ((s.writeReg rd v).writeFlags keepRow).advance 1
  | .error f => raise f

/-- `API p, i` (R158). -/
def execApi (p : PairNum) (i : BitVec 9) (s : State) : Result :=
  orRaise (widen s.cfg.apiImm i) fun imm =>
    ((s.writePair p (s.readPair p + imm)).writeFlags keepRow).advance 1

end Sys2Proof.Machine
end

