-- ==== Sys2Proof/Machine/TypeRR.lean ====
section
/-! DEFINITION. Type R-R: register and register (42_type_r-r.md R135 to R144). -/

namespace Sys2Proof.Machine

/-- `MOV rd, rs` (R136). -/
def execMov (rd rs : RegNum) (s : State) : Result :=
  writeResult rd (s.readReg rs) keepRow s

/-- `AND rd, rs` (R137). -/
def execAnd (rd rs : RegNum) (s : State) : Result :=
  writeLogic rd (s.readReg rd &&& s.readReg rs) s

/-- `OR rd, rs` (R138). -/
def execOr (rd rs : RegNum) (s : State) : Result :=
  writeLogic rd (s.readReg rd ||| s.readReg rs) s

/-- `XOR rd, rs` (R139). -/
def execXor (rd rs : RegNum) (s : State) : Result :=
  writeLogic rd (s.readReg rd ^^^ s.readReg rs) s

/-- `ADD rd, rs` (R140). -/
def execAdd (rd rs : RegNum) (s : State) : Result :=
  writeSum rd (add9 (s.readReg rd) (s.readReg rs) false) s

/-- `ADC rd, rs` (R141). -/
def execAdc (rd rs : RegNum) (s : State) : Result :=
  writeSum rd (add9 (s.readReg rd) (s.readReg rs) (s.flag .c)) s

/-- `CMP rd, rs` (R142): the subtraction of SUB, flags only. -/
def execCmp (rd rs : RegNum) (s : State) : Result :=
  compareSum (add9 (s.readReg rd) (~~~s.readReg rs) true) s

/-- `SUB rd, rs` (R143): `x[rd] + ~x[rs] + 1`. -/
def execSub (rd rs : RegNum) (s : State) : Result :=
  writeSum rd (add9 (s.readReg rd) (~~~s.readReg rs) true) s

/-- `SBB rd, rs` (R144): `x[rd] + ~x[rs] + C`. -/
def execSbb (rd rs : RegNum) (s : State) : Result :=
  writeSum rd (add9 (s.readReg rd) (~~~s.readReg rs) (s.flag .c)) s

end Sys2Proof.Machine
end

