-- ==== Sys2Proof/Machine/Dispatch.lean ====
section
/-! DEFINITION. One arm per instruction: exec calls the instruction's meaning. -/

namespace Sys2Proof.Machine

def exec (i : Instr) (s : State) : Host.Outcome State Fault Refusal :=
  match i with
  -- Type R-I (40_type_r-i.md)
  | .ldi rd imm => Sys2Proof.Machine.execLdi rd imm s
  | .ani rd imm => Sys2Proof.Machine.execAni rd imm s
  | .ori rd imm => Sys2Proof.Machine.execOri rd imm s
  | .xoi rd imm => Sys2Proof.Machine.execXoi rd imm s
  | .adi rd imm => Sys2Proof.Machine.execAdi rd imm s
  | .aci rd imm => Sys2Proof.Machine.execAci rd imm s
  | .cpi rd imm => Sys2Proof.Machine.execCpi rd imm s
  -- Type R-IO (41_type_r-io.md)
  | .inp rd io => Sys2Proof.Machine.execInp rd io s
  | .out rs io => Sys2Proof.Machine.execOut rs io s
  -- Type R-R (42_type_r-r.md)
  | .mov rd rs => Sys2Proof.Machine.execMov rd rs s
  | .and rd rs => Sys2Proof.Machine.execAnd rd rs s
  | .or rd rs => Sys2Proof.Machine.execOr rd rs s
  | .xor rd rs => Sys2Proof.Machine.execXor rd rs s
  | .add rd rs => Sys2Proof.Machine.execAdd rd rs s
  | .adc rd rs => Sys2Proof.Machine.execAdc rd rs s
  | .cmp rd rs => Sys2Proof.Machine.execCmp rd rs s
  | .sub rd rs => Sys2Proof.Machine.execSub rd rs s
  | .sbb rd rs => Sys2Proof.Machine.execSbb rd rs s
  -- Type R-P, R-P-K, P-I (43_type_r-p_r-p-k_p-i.md)
  | .sri rs p => Sys2Proof.Machine.execSri rs p s
  | .srd rs p => Sys2Proof.Machine.execSrd rs p s
  | .lri rd p => Sys2Proof.Machine.execLri rd p s
  | .lrd rd p => Sys2Proof.Machine.execLrd rd p s
  | .str rs p k => Sys2Proof.Machine.execStr rs p k s
  | .ldr rd p k => Sys2Proof.Machine.execLdr rd p k s
  | .api p imm => Sys2Proof.Machine.execApi p imm s
  -- Type Branch (44_type_branch.md)
  | .br a => Sys2Proof.Machine.execBr a s
  | .bc a => Sys2Proof.Machine.execBc a s
  | .bnc a => Sys2Proof.Machine.execBnc a s
  | .bz a => Sys2Proof.Machine.execBz a s
  | .bnz a => Sys2Proof.Machine.execBnz a s
  | .bn a => Sys2Proof.Machine.execBn a s
  | .bnn a => Sys2Proof.Machine.execBnn a s
  -- Type R (45_type_r.md)
  | .sll rd => Sys2Proof.Machine.execSll rd s
  | .srl rd => Sys2Proof.Machine.execSrl rd s
  | .sra rd => Sys2Proof.Machine.execSra rd s
  | .rlc rd => Sys2Proof.Machine.execRlc rd s
  | .rrc rd => Sys2Proof.Machine.execRrc rd s
  | .not rd => Sys2Proof.Machine.execNot rd s
  | .pop rd => Sys2Proof.Machine.execPop rd s
  -- Type P (46_type_p.md)
  | .jmpi p => Sys2Proof.Machine.execJmpi p s
  | .jci p => Sys2Proof.Machine.execJci p s
  | .jnci p => Sys2Proof.Machine.execJnci p s
  | .jzi p => Sys2Proof.Machine.execJzi p s
  | .jnzi p => Sys2Proof.Machine.execJnzi p s
  | .jni p => Sys2Proof.Machine.execJni p s
  | .jnni p => Sys2Proof.Machine.execJnni p s
  -- Type A (47_type_a.md)
  | .jmp a => Sys2Proof.Machine.execJmp a s
  | .jc a => Sys2Proof.Machine.execJc a s
  | .jnc a => Sys2Proof.Machine.execJnc a s
  | .jz a => Sys2Proof.Machine.execJz a s
  | .jnz a => Sys2Proof.Machine.execJnz a s
  | .jn a => Sys2Proof.Machine.execJn a s
  | .jnn a => Sys2Proof.Machine.execJnn a s
  | .call a => Sys2Proof.Machine.execCall a s
  | .cc a => Sys2Proof.Machine.execCc a s
  | .cnc a => Sys2Proof.Machine.execCnc a s
  | .cz a => Sys2Proof.Machine.execCz a s
  | .cnz a => Sys2Proof.Machine.execCnz a s
  | .cn a => Sys2Proof.Machine.execCn a s
  | .cnn a => Sys2Proof.Machine.execCnn a s
  -- Type No Args (48_type_no_args.md)
  | .ret => Sys2Proof.Machine.execRet s
  | .rc => Sys2Proof.Machine.execRc s
  | .rnc => Sys2Proof.Machine.execRnc s
  | .rz => Sys2Proof.Machine.execRz s
  | .rnz => Sys2Proof.Machine.execRnz s
  | .rn => Sys2Proof.Machine.execRn s
  | .rnn => Sys2Proof.Machine.execRnn s
  | .pus => Sys2Proof.Machine.execPus s
  | .pos => Sys2Proof.Machine.execPos s
  | .nop => Sys2Proof.Machine.execNop s
  | .hlt => Sys2Proof.Machine.execHlt s
  -- Type M and Type P-P (49_type_m_p-p.md)
  | .ssr m => Sys2Proof.Machine.execSsr m s
  | .csr m => Sys2Proof.Machine.execCsr m s
  | .mvp pd ps => Sys2Proof.Machine.execMvp pd ps s

end Sys2Proof.Machine
end

