-- ==== Sys2Proof/Decode.lean ====
section
/-! DEFINITION. Decoding and encoding (30_encoding.md R80 to R109). The unit of the instruction space is the 16-bit word, which is never split (20_memory.md R54, R56), so the decoder reads a list of words. It follows the decoding procedure of R106; `opcodeTable` is the table of R109 as data, and `encode` is written from the same patterns. -/

namespace Sys2Proof

/-- The condition a 3-bit selector names (00_scope.md R14); 111 names none. -/
def Cond.ofSelector (ccc : BitVec 3) : Option Cond :=
  match ccc with
  | 0b000#3 => some .always
  | 0b001#3 => some .c
  | 0b010#3 => some .nc
  | 0b011#3 => some .z
  | 0b100#3 => some .nz
  | 0b101#3 => some .n
  | 0b110#3 => some .nn
  | _ => none

/-- The selector of a condition (00_scope.md R14). -/
def Cond.selector : Cond → BitVec 3
  | .always => 0b000
  | .c => 0b001
  | .nc => 0b010
  | .z => 0b011
  | .nz => 0b100
  | .n => 0b101
  | .nn => 0b110

/-- The Type Branch instruction of a condition (R89). -/
def Instr.branch (cond : Cond) (a : BitVec 9) : Instr :=
  match cond with
  | .always => .br a
  | .c => .bc a
  | .nc => .bnc a
  | .z => .bz a
  | .nz => .bnz a
  | .n => .bn a
  | .nn => .bnn a

/-- The Type P instruction of a condition (R92). -/
def Instr.indirect (cond : Cond) (p : PairNum) : Instr :=
  match cond with
  | .always => .jmpi p
  | .c => .jci p
  | .nc => .jnci p
  | .z => .jzi p
  | .nz => .jnzi p
  | .n => .jni p
  | .nn => .jnni p

/-- The Type A jump of a condition (R93). -/
def Instr.jump (cond : Cond) (a : Word) : Instr :=
  match cond with
  | .always => .jmp a
  | .c => .jc a
  | .nc => .jnc a
  | .z => .jz a
  | .nz => .jnz a
  | .n => .jn a
  | .nn => .jnn a

/-- The Type A call of a condition (R93). -/
def Instr.callTo (cond : Cond) (a : Word) : Instr :=
  match cond with
  | .always => .call a
  | .c => .cc a
  | .nc => .cnc a
  | .z => .cz a
  | .nz => .cnz a
  | .n => .cn a
  | .nn => .cnn a

/-- The return of a condition (R95). -/
def Instr.returnOn (cond : Cond) : Instr :=
  match cond with
  | .always => .ret
  | .c => .rc
  | .nc => .rnc
  | .z => .rz
  | .nz => .rnz
  | .n => .rn
  | .nn => .rnn

/-- What a first word alone tells (R106): a one-word instruction, the jump or call whose address is the next word, or no instruction. -/
inductive FirstWord where
  | one (i : Instr)
  | jump (cond : Cond)
  | call (cond : Cond)
  | unallocated
deriving DecidableEq, Repr

/-- Group 10 (R98): Type R-R by `w[7:4]`; Type R-P where also `w[8] = 0`. -/
def decodeGroup10 (w : Word) : FirstWord :=
  let rd := w.extractLsb' 12 4
  let rs := w.extractLsb' 8 4
  let p := w.extractLsb' 9 3
  let w8 := w.extractLsb' 8 1
  match w.extractLsb' 4 4 with
  | 0x1#4 => .one (.mov rd rs)
  | 0x2#4 => .one (.and rd rs)
  | 0x3#4 => .one (.or rd rs)
  | 0x4#4 => .one (.xor rd rs)
  | 0x5#4 => .one (.add rd rs)
  | 0x6#4 => .one (.adc rd rs)
  | 0x7#4 => .one (.cmp rd rs)
  | 0x8#4 => .one (.sub rd rs)
  | 0x9#4 => .one (.sbb rd rs)
  | 0xC#4 => if w8 = 0 then .one (.sri rd p) else .unallocated
  | 0xD#4 => if w8 = 0 then .one (.srd rd p) else .unallocated
  | 0xE#4 => if w8 = 0 then .one (.lri rd p) else .unallocated
  | 0xF#4 => if w8 = 0 then .one (.lrd rd p) else .unallocated
  | _ => .unallocated

/-- A conditional form of group 15 with the fixed bits `w[12] = 0` and `w[11:8] = 1110` (R99). -/
def decodeConditional (w : Word) (build : Cond → FirstWord) : FirstWord :=
  if w.extractLsb' 8 5 = 0b01110 then
    match Cond.ofSelector (w.extractLsb' 13 3) with
    | some cond => build cond
    | none => .unallocated
  else .unallocated

/-- Type P (R92): `w[12] = 0` and `w[8] = 0`. -/
def decodeIndirect (w : Word) : FirstWord :=
  if w.extractLsb' 12 1 = 0 ∧ w.extractLsb' 8 1 = 0 then
    match Cond.ofSelector (w.extractLsb' 13 3) with
    | some cond => .one (.indirect cond (w.extractLsb' 9 3))
    | none => .unallocated
  else .unallocated

/-- Type R (R90): `w[11:8] = 0000`. -/
def decodeTypeR (w : Word) (build : RegNum → Instr) : FirstWord :=
  if w.extractLsb' 8 4 = 0 then .one (build (w.extractLsb' 12 4)) else .unallocated

/-- Group 15 (R99), by `w[7:4]` with the fixed bits each function demands. -/
def decodeGroup15 (w : Word) : FirstWord :=
  match w.extractLsb' 4 4 with
  | 0x1#4 => decodeConditional w .call
  | 0x2#4 => decodeConditional w .jump
  | 0x3#4 => decodeIndirect w
  | 0x4#4 => decodeConditional w fun cond => .one (.returnOn cond)
  | 0x5#4 => if w.extractLsb' 8 8 = 0x0E then .one .pus else .unallocated
  | 0x6#4 => if w.extractLsb' 8 8 = 0x0E then .one .pos else .unallocated
  | 0x7#4 => if w.extractLsb' 12 4 = 0 then .one (.ssr (w.extractLsb' 8 4)) else .unallocated
  | 0x8#4 => if w.extractLsb' 12 4 = 0 then .one (.csr (w.extractLsb' 8 4)) else .unallocated
  | 0x9#4 =>
    if w.extractLsb' 12 1 = 0 ∧ w.extractLsb' 8 1 = 0 then
      .one (.mvp (w.extractLsb' 13 3) (w.extractLsb' 9 3))
    else .unallocated
  | 0xA#4 => decodeTypeR w .sll
  | 0xB#4 => decodeTypeR w .srl
  | 0xC#4 => decodeTypeR w .sra
  | 0xD#4 => decodeTypeR w .rlc
  | 0xE#4 => decodeTypeR w .rrc
  | 0xF#4 => decodeTypeR w .not
  | _ => .unallocated

/-- Group 0 (R100): NOP is the word of all zeros, POP is `dddd 1110 0010 0000`. -/
def decodeGroup0 (w : Word) : FirstWord :=
  if w = 0 then .one .nop
  else if w.extractLsb' 4 8 = 0xE2 then .one (.pop (w.extractLsb' 12 4))
  else .unallocated

/-- Type Branch (R89): the selector is `w[15:13]`, the offset `w[12:4]`. -/
def decodeBranch (w : Word) : FirstWord :=
  match Cond.ofSelector (w.extractLsb' 13 3) with
  | some cond => .one (.branch cond (w.extractLsb' 4 9))
  | none => .unallocated

/-- Step (2) of the decoding procedure R106: by the primary opcode `w[3:0]` (R82). -/
def decodeFirst (w : Word) : FirstWord :=
  let r := w.extractLsb' 12 4
  let i := w.extractLsb' 4 8
  let p := w.extractLsb' 9 3
  let k := w.extractLsb' 4 5
  match w.extractLsb' 0 4 with
  | 0x0#4 => decodeGroup0 w
  | 0x1#4 => .one (.ldi r i)
  | 0x2#4 => .one (.ani r i)
  | 0x3#4 => .one (.ori r i)
  | 0x4#4 => .one (.xoi r i)
  | 0x5#4 => .one (.adi r i)
  | 0x6#4 => .one (.aci r i)
  | 0x7#4 => .one (.cpi r i)
  | 0x8#4 => .one (.inp r i)
  | 0x9#4 => .one (.out r i)
  | 0xA#4 => decodeGroup10 w
  | 0xB#4 => .one (.str r p k)
  | 0xC#4 => .one (.ldr r p k)
  | 0xD#4 => .one (.api p (r ++ k))
  | 0xE#4 => decodeBranch w
  | _ => decodeGroup15 w

/-- The answers of the decoder: an instruction and the words after it, or the reason there is none. -/
inductive Decoded where
  | ok (i : Instr) (rest : List Word)
  /-- There is no first word. -/
  | noWord
  /-- The first word matches no instruction (R102). -/
  | illegal (w : Word)
  /-- The first word is of Type A and there is no second word. -/
  | noSecondWord
deriving DecidableEq, Repr

/-- The decoding procedure R106: HLT_WORD first, then the primary opcode, then the second word of Type A. -/
def decode (cfg : Config) : List Word → Decoded
  | [] => .noWord
  | w :: rest =>
    if cfg.hltWord = some w then .ok .hlt rest
    else
      match decodeFirst w, rest with
      | .one i, _ => .ok i rest
      | .jump cond, a :: rest' => .ok (.jump cond a) rest'
      | .call cond, a :: rest' => .ok (.callTo cond a) rest'
      | .jump _, [] => .noSecondWord
      | .call _, [] => .noSecondWord
      | .unallocated, _ => .illegal w

/-! ### Encoding, from the patterns of R83 to R97 -/

/-- `dddd iiii iiii oooo`: Type R-I and Type R-IO (R83, R84). -/
def encodeRI (r : RegNum) (i : Byte) (opcode : BitVec 4) : Word := r ++ i ++ opcode

/-- `dddd ssss ffff 1010`: Type R-R (R85). -/
def encodeRR (rd rs : RegNum) (fn : BitVec 4) : Word := rd ++ rs ++ fn ++ 0b1010#4

/-- `rrrr ppp0 ffff 1010`: Type R-P (R86). -/
def encodeRP (r : RegNum) (p : PairNum) (fn : BitVec 4) : Word := r ++ p ++ 0b0#1 ++ fn ++ 0b1010#4

/-- `rrrr pppk kkkk oooo`: Type R-P-K (R87). -/
def encodeRPK (r : RegNum) (p : PairNum) (k : BitVec 5) (opcode : BitVec 4) : Word := r ++ p ++ k ++ opcode

/-- `iiii pppi iiii 1101`: Type P-I (R88). -/
def encodePI (p : PairNum) (i : BitVec 9) : Word := i.extractLsb' 5 4 ++ p ++ i.extractLsb' 0 5 ++ 0b1101#4

/-- `ccca aaaa aaaa 1110`: Type Branch (R89). -/
def encodeBranch (cond : Cond) (a : BitVec 9) : Word := cond.selector ++ a ++ 0b1110#4

/-- `dddd 0000 ffff 1111`: Type R (R90). -/
def encodeR (rd : RegNum) (fn : BitVec 4) : Word := rd ++ 0b0000#4 ++ fn ++ 0b1111#4

/-- `dddd 1110 0010 0000`: POP (R91). -/
def encodePop (rd : RegNum) : Word := rd ++ 0b1110_0010_0000#12

/-- `ccc0 ppp0 0011 1111`: Type P (R92). -/
def encodeP (cond : Cond) (p : PairNum) : Word := cond.selector ++ 0b0#1 ++ p ++ 0b0_0011_1111#9

/-- `ccc0 1110 ffff 1111`: Type A (R93) and the returns (R95). -/
def encodeConditional (cond : Cond) (fn : BitVec 4) : Word := cond.selector ++ 0b0_1110#5 ++ fn ++ 0b1111#4

/-- `0000 mmmm ffff 1111`: Type M (R96). -/
def encodeM (m : BitVec 4) (fn : BitVec 4) : Word := 0b0000#4 ++ m ++ fn ++ 0b1111#4

/-- `ddd0 sss0 1001 1111`: Type P-P (R97). -/
def encodePP (pd ps : PairNum) : Word := pd ++ 0b0#1 ++ ps ++ 0b0_1001_1111#9

/-- The words of a well-formed instruction (R83 to R97). HLT has the word HLT_WORD, and none where that is absent (R105). -/
def encode (cfg : Config) : Instr → List Word
  | .ldi rd i => [encodeRI rd i 0b0001]
  | .ani rd i => [encodeRI rd i 0b0010]
  | .ori rd i => [encodeRI rd i 0b0011]
  | .xoi rd i => [encodeRI rd i 0b0100]
  | .adi rd i => [encodeRI rd i 0b0101]
  | .aci rd i => [encodeRI rd i 0b0110]
  | .cpi rd i => [encodeRI rd i 0b0111]
  | .inp rd io => [encodeRI rd io 0b1000]
  | .out rs io => [encodeRI rs io 0b1001]
  | .mov rd rs => [encodeRR rd rs 0b0001]
  | .and rd rs => [encodeRR rd rs 0b0010]
  | .or rd rs => [encodeRR rd rs 0b0011]
  | .xor rd rs => [encodeRR rd rs 0b0100]
  | .add rd rs => [encodeRR rd rs 0b0101]
  | .adc rd rs => [encodeRR rd rs 0b0110]
  | .cmp rd rs => [encodeRR rd rs 0b0111]
  | .sub rd rs => [encodeRR rd rs 0b1000]
  | .sbb rd rs => [encodeRR rd rs 0b1001]
  | .sri rs p => [encodeRP rs p 0b1100]
  | .srd rs p => [encodeRP rs p 0b1101]
  | .lri rd p => [encodeRP rd p 0b1110]
  | .lrd rd p => [encodeRP rd p 0b1111]
  | .str rs p k => [encodeRPK rs p k 0b1011]
  | .ldr rd p k => [encodeRPK rd p k 0b1100]
  | .api p i => [encodePI p i]
  | .br a => [encodeBranch .always a]
  | .bc a => [encodeBranch .c a]
  | .bnc a => [encodeBranch .nc a]
  | .bz a => [encodeBranch .z a]
  | .bnz a => [encodeBranch .nz a]
  | .bn a => [encodeBranch .n a]
  | .bnn a => [encodeBranch .nn a]
  | .sll rd => [encodeR rd 0b1010]
  | .srl rd => [encodeR rd 0b1011]
  | .sra rd => [encodeR rd 0b1100]
  | .rlc rd => [encodeR rd 0b1101]
  | .rrc rd => [encodeR rd 0b1110]
  | .not rd => [encodeR rd 0b1111]
  | .pop rd => [encodePop rd]
  | .jmpi p => [encodeP .always p]
  | .jci p => [encodeP .c p]
  | .jnci p => [encodeP .nc p]
  | .jzi p => [encodeP .z p]
  | .jnzi p => [encodeP .nz p]
  | .jni p => [encodeP .n p]
  | .jnni p => [encodeP .nn p]
  | .jmp a => [encodeConditional .always 0b0010, a]
  | .jc a => [encodeConditional .c 0b0010, a]
  | .jnc a => [encodeConditional .nc 0b0010, a]
  | .jz a => [encodeConditional .z 0b0010, a]
  | .jnz a => [encodeConditional .nz 0b0010, a]
  | .jn a => [encodeConditional .n 0b0010, a]
  | .jnn a => [encodeConditional .nn 0b0010, a]
  | .call a => [encodeConditional .always 0b0001, a]
  | .cc a => [encodeConditional .c 0b0001, a]
  | .cnc a => [encodeConditional .nc 0b0001, a]
  | .cz a => [encodeConditional .z 0b0001, a]
  | .cnz a => [encodeConditional .nz 0b0001, a]
  | .cn a => [encodeConditional .n 0b0001, a]
  | .cnn a => [encodeConditional .nn 0b0001, a]
  | .ret => [encodeConditional .always 0b0100]
  | .rc => [encodeConditional .c 0b0100]
  | .rnc => [encodeConditional .nc 0b0100]
  | .rz => [encodeConditional .z 0b0100]
  | .rnz => [encodeConditional .nz 0b0100]
  | .rn => [encodeConditional .n 0b0100]
  | .rnn => [encodeConditional .nn 0b0100]
  | .pus => [0x0E5F]
  | .pos => [0x0E6F]
  | .nop => [0x0000]
  | .hlt => cfg.hltWord.toList
  | .ssr m => [encodeM m 0b0111]
  | .csr m => [encodeM m 0b1000]
  | .mvp pd ps => [encodePP pd ps]

/-- How many words an instruction takes (R80): two for Type A, one for every other. -/
def Instr.length : Instr → Nat
  | .ldi _ _ => 1
  | .ani _ _ => 1
  | .ori _ _ => 1
  | .xoi _ _ => 1
  | .adi _ _ => 1
  | .aci _ _ => 1
  | .cpi _ _ => 1
  | .inp _ _ => 1
  | .out _ _ => 1
  | .mov _ _ => 1
  | .and _ _ => 1
  | .or _ _ => 1
  | .xor _ _ => 1
  | .add _ _ => 1
  | .adc _ _ => 1
  | .cmp _ _ => 1
  | .sub _ _ => 1
  | .sbb _ _ => 1
  | .sri _ _ => 1
  | .srd _ _ => 1
  | .lri _ _ => 1
  | .lrd _ _ => 1
  | .str _ _ _ => 1
  | .ldr _ _ _ => 1
  | .api _ _ => 1
  | .br _ => 1
  | .bc _ => 1
  | .bnc _ => 1
  | .bz _ => 1
  | .bnz _ => 1
  | .bn _ => 1
  | .bnn _ => 1
  | .sll _ => 1
  | .srl _ => 1
  | .sra _ => 1
  | .rlc _ => 1
  | .rrc _ => 1
  | .not _ => 1
  | .pop _ => 1
  | .jmpi _ => 1
  | .jci _ => 1
  | .jnci _ => 1
  | .jzi _ => 1
  | .jnzi _ => 1
  | .jni _ => 1
  | .jnni _ => 1
  | .jmp _ => 2
  | .jc _ => 2
  | .jnc _ => 2
  | .jz _ => 2
  | .jnz _ => 2
  | .jn _ => 2
  | .jnn _ => 2
  | .call _ => 2
  | .cc _ => 2
  | .cnc _ => 2
  | .cz _ => 2
  | .cnz _ => 2
  | .cn _ => 2
  | .cnn _ => 2
  | .ret => 1
  | .rc => 1
  | .rnc => 1
  | .rz => 1
  | .rnz => 1
  | .rn => 1
  | .rnn => 1
  | .pus => 1
  | .pos => 1
  | .nop => 1
  | .hlt => 1
  | .ssr _ => 1
  | .csr _ => 1
  | .mvp _ _ => 1

/-! ### The table of R109 -/

/-- A row of the table of R109: a word `w` is the instruction when `w &&& mask = pattern`. -/
structure TableRow where
  mnemonic : String
  pattern : Word
  mask : Word
deriving DecidableEq, Repr

/-- A word is a row's instruction (R109). -/
def TableRow.covers (row : TableRow) (w : Word) : Bool := w &&& row.mask == row.pattern

/-- R109, format R-I. -/
def tableRowsRI : List TableRow :=
  [⟨"LDI", 0x0001, 0x000F⟩,
   ⟨"ANI", 0x0002, 0x000F⟩,
   ⟨"ORI", 0x0003, 0x000F⟩,
   ⟨"XOI", 0x0004, 0x000F⟩,
   ⟨"ADI", 0x0005, 0x000F⟩,
   ⟨"ACI", 0x0006, 0x000F⟩,
   ⟨"CPI", 0x0007, 0x000F⟩]

/-- R109, format R-IO. -/
def tableRowsRIO : List TableRow :=
  [⟨"IN", 0x0008, 0x000F⟩,
   ⟨"OUT", 0x0009, 0x000F⟩]

/-- R109, format R-R. -/
def tableRowsRR : List TableRow :=
  [⟨"MOV", 0x001A, 0x00FF⟩,
   ⟨"AND", 0x002A, 0x00FF⟩,
   ⟨"OR", 0x003A, 0x00FF⟩,
   ⟨"XOR", 0x004A, 0x00FF⟩,
   ⟨"ADD", 0x005A, 0x00FF⟩,
   ⟨"ADC", 0x006A, 0x00FF⟩,
   ⟨"CMP", 0x007A, 0x00FF⟩,
   ⟨"SUB", 0x008A, 0x00FF⟩,
   ⟨"SBB", 0x009A, 0x00FF⟩]

/-- R109, format R-P. -/
def tableRowsRP : List TableRow :=
  [⟨"SRI", 0x00CA, 0x01FF⟩,
   ⟨"SRD", 0x00DA, 0x01FF⟩,
   ⟨"LRI", 0x00EA, 0x01FF⟩,
   ⟨"LRD", 0x00FA, 0x01FF⟩]

/-- R109, format R-P-K. -/
def tableRowsRPK : List TableRow :=
  [⟨"STR", 0x000B, 0x000F⟩,
   ⟨"LDR", 0x000C, 0x000F⟩]

/-- R109, format P-I. -/
def tableRowsPI : List TableRow :=
  [⟨"API", 0x000D, 0x000F⟩]

/-- R109, format Branch. -/
def tableRowsBranch : List TableRow :=
  [⟨"BR", 0x000E, 0xE00F⟩,
   ⟨"BC", 0x200E, 0xE00F⟩,
   ⟨"BNC", 0x400E, 0xE00F⟩,
   ⟨"BZ", 0x600E, 0xE00F⟩,
   ⟨"BNZ", 0x800E, 0xE00F⟩,
   ⟨"BN", 0xA00E, 0xE00F⟩,
   ⟨"BNN", 0xC00E, 0xE00F⟩]

/-- R109, format R. -/
def tableRowsR : List TableRow :=
  [⟨"SLL", 0x00AF, 0x0FFF⟩,
   ⟨"SRL", 0x00BF, 0x0FFF⟩,
   ⟨"SRA", 0x00CF, 0x0FFF⟩,
   ⟨"RLC", 0x00DF, 0x0FFF⟩,
   ⟨"RRC", 0x00EF, 0x0FFF⟩,
   ⟨"NOT", 0x00FF, 0x0FFF⟩,
   ⟨"POP", 0x0E20, 0x0FFF⟩]

/-- R109, format P. -/
def tableRowsP : List TableRow :=
  [⟨"JMPI", 0x003F, 0xF1FF⟩,
   ⟨"JCI", 0x203F, 0xF1FF⟩,
   ⟨"JNCI", 0x403F, 0xF1FF⟩,
   ⟨"JZI", 0x603F, 0xF1FF⟩,
   ⟨"JNZI", 0x803F, 0xF1FF⟩,
   ⟨"JNI", 0xA03F, 0xF1FF⟩,
   ⟨"JNNI", 0xC03F, 0xF1FF⟩]

/-- R109, format A. -/
def tableRowsA : List TableRow :=
  [⟨"JMP", 0x0E2F, 0xFFFF⟩,
   ⟨"JC", 0x2E2F, 0xFFFF⟩,
   ⟨"JNC", 0x4E2F, 0xFFFF⟩,
   ⟨"JZ", 0x6E2F, 0xFFFF⟩,
   ⟨"JNZ", 0x8E2F, 0xFFFF⟩,
   ⟨"JN", 0xAE2F, 0xFFFF⟩,
   ⟨"JNN", 0xCE2F, 0xFFFF⟩,
   ⟨"CALL", 0x0E1F, 0xFFFF⟩,
   ⟨"CC", 0x2E1F, 0xFFFF⟩,
   ⟨"CNC", 0x4E1F, 0xFFFF⟩,
   ⟨"CZ", 0x6E1F, 0xFFFF⟩,
   ⟨"CNZ", 0x8E1F, 0xFFFF⟩,
   ⟨"CN", 0xAE1F, 0xFFFF⟩,
   ⟨"CNN", 0xCE1F, 0xFFFF⟩]

/-- R109, format No Args. -/
def tableRowsNoArgs : List TableRow :=
  [⟨"RET", 0x0E4F, 0xFFFF⟩,
   ⟨"RC", 0x2E4F, 0xFFFF⟩,
   ⟨"RNC", 0x4E4F, 0xFFFF⟩,
   ⟨"RZ", 0x6E4F, 0xFFFF⟩,
   ⟨"RNZ", 0x8E4F, 0xFFFF⟩,
   ⟨"RN", 0xAE4F, 0xFFFF⟩,
   ⟨"RNN", 0xCE4F, 0xFFFF⟩,
   ⟨"PUS", 0x0E5F, 0xFFFF⟩,
   ⟨"POS", 0x0E6F, 0xFFFF⟩,
   ⟨"NOP", 0x0000, 0xFFFF⟩]

/-- R109, format M. -/
def tableRowsM : List TableRow :=
  [⟨"SSR", 0x007F, 0xF0FF⟩,
   ⟨"CSR", 0x008F, 0xF0FF⟩]

/-- R109, format P-P. -/
def tableRowsPP : List TableRow :=
  [⟨"MVP", 0x009F, 0x11FF⟩]

/-- The 73 rows of R109 that have an encoding; HLT has none (R105). -/
def opcodeTable : List TableRow :=
  tableRowsRI ++ tableRowsRIO ++ tableRowsRR ++ tableRowsRP ++ tableRowsRPK ++ tableRowsPI ++ tableRowsBranch ++ tableRowsR ++ tableRowsP ++
  tableRowsA ++ tableRowsNoArgs ++ tableRowsM ++ tableRowsPP

/-- R102: a word that matches no row of the table. -/
def unallocated (w : Word) : Bool := opcodeTable.all fun row => !row.covers w

/-! ### The host's entry -/

/-- The words of an instruction whose bits are `w`, the first word lowest, with every bit at or above `nbits` zero: the first word and the one that follows it. -/
def tableWords (nbits w : Nat) : List Word :=
  let bits := w % 2 ^ nbits
  [BitVec.ofNat 16 bits, BitVec.ofNat 16 (bits / 2 ^ 16)]

/-- The instruction the decoder reads, under the default parameters, from an instruction numbered as spec/opcode_table.json numbers it. -/
def decodeTableWord (nbits w : Nat) : Option Instr :=
  match decode Config.default (tableWords nbits w) with
  | .ok i _ => some i
  | .noWord => none
  | .illegal _ => none
  | .noSecondWord => none

end Sys2Proof
end

