-- ==== Sys2Proof/WellFormed.lean ====
section
/-! DEFINITION. Well-formedness. The types of Instr's fields hold exactly the values of the operand fields (30_encoding.md R101), so every operand is in range by its type; what the types do not hold is checked here: that HLT has a word to be written with (R105), and what 00_scope.md R8 demands of the parameters. -/

namespace Sys2Proof

/-- R8: S_BIT_C, S_BIT_Z and S_BIT_N are three distinct bit indices. -/
def Config.flagBitsDistinct (cfg : Config) : Bool :=
  cfg.sBitC != cfg.sBitZ && cfg.sBitC != cfg.sBitN && cfg.sBitZ != cfg.sBitN

/-- R8: STACK_DEPTH is at least 1. -/
def Config.stackDepthPositive (cfg : Config) : Bool :=
  decide (1 ≤ cfg.stackDepth)

/-- R8, R105: HLT_WORD is absent or matches no row of the opcode table. -/
def Config.hltWordFree (cfg : Config) : Bool :=
  match cfg.hltWord with
  | none => true
  | some w => unallocated w

/-- The constraints of R8 on the parameters. -/
def Config.wf (cfg : Config) : Bool :=
  cfg.flagBitsDistinct && cfg.stackDepthPositive && cfg.hltWordFree

/-- An instruction that has words under these parameters: every one but HLT without HLT_WORD (R105). -/
def Instr.wellFormed (cfg : Config) (i : Instr) : Bool :=
  match i with
  | .ldi _ _ => true
  | .ani _ _ => true
  | .ori _ _ => true
  | .xoi _ _ => true
  | .adi _ _ => true
  | .aci _ _ => true
  | .cpi _ _ => true
  | .inp _ _ => true
  | .out _ _ => true
  | .mov _ _ => true
  | .and _ _ => true
  | .or _ _ => true
  | .xor _ _ => true
  | .add _ _ => true
  | .adc _ _ => true
  | .cmp _ _ => true
  | .sub _ _ => true
  | .sbb _ _ => true
  | .sri _ _ => true
  | .srd _ _ => true
  | .lri _ _ => true
  | .lrd _ _ => true
  | .str _ _ _ => true
  | .ldr _ _ _ => true
  | .api _ _ => true
  | .br _ => true
  | .bc _ => true
  | .bnc _ => true
  | .bz _ => true
  | .bnz _ => true
  | .bn _ => true
  | .bnn _ => true
  | .sll _ => true
  | .srl _ => true
  | .sra _ => true
  | .rlc _ => true
  | .rrc _ => true
  | .not _ => true
  | .pop _ => true
  | .jmpi _ => true
  | .jci _ => true
  | .jnci _ => true
  | .jzi _ => true
  | .jnzi _ => true
  | .jni _ => true
  | .jnni _ => true
  | .jmp _ => true
  | .jc _ => true
  | .jnc _ => true
  | .jz _ => true
  | .jnz _ => true
  | .jn _ => true
  | .jnn _ => true
  | .call _ => true
  | .cc _ => true
  | .cnc _ => true
  | .cz _ => true
  | .cnz _ => true
  | .cn _ => true
  | .cnn _ => true
  | .ret => true
  | .rc => true
  | .rnc => true
  | .rz => true
  | .rnz => true
  | .rn => true
  | .rnn => true
  | .pus => true
  | .pos => true
  | .nop => true
  | .hlt => cfg.hltWord.isSome
  | .ssr _ => true
  | .csr _ => true
  | .mvp _ _ => true

end Sys2Proof
end

