-- ==== Sys2Proof/Machine/Fetch.lean ====
section
/-! DEFINITION. Fetching the words of an instruction (20_memory.md R54) and what a word that decodes to nothing leads to (30_encoding.md R102, R103), in the order of 60_exceptions.md R245 (2), (3), (5). -/

namespace Sys2Proof.Machine

/-- `IMemRead(a)`: the word mapped at an instruction address, or none (R54). -/
def State.imemRead (s : State) (a : Word) : Option Word := IMem.read s.imem a.toNat

/-- The words that can be fetched at the pc: none, the first one, or the first one and the one after it modulo 2^16 (R54, 30_encoding.md R94). -/
def State.fetchWords (s : State) : List Word :=
  match s.imemRead s.pc with
  | none => []
  | some w => w :: (s.imemRead (s.pc + 1)).toList

/-- The instruction at the pc (30_encoding.md R106). -/
def State.fetchDecode (s : State) : Decoded := decode s.cfg s.fetchWords

/-- An unallocated word (R103): IllegalEncoding under STRICT_DECODE; refused by name without it (log entry 20). -/
def unallocatedWord (w : Word) (s : State) : Result :=
  if s.cfg.strictDecode then raise (.illegalEncoding w s.pc) else .refused (.nonStrictDecode w s.pc)

end Sys2Proof.Machine
end

