-- ==== Sys2Proof/Machine/Step.lean ====
section
/-! DEFINITION. One step (60_exceptions.md R245, R255), the step as a function on states that records its fault (R242, R255), and the host's way to put an instruction where the next step fetches. -/

namespace Sys2Proof.Machine

/-- One step (R255): a halted or faulted state is returned unchanged; else fetch, decode, execute. -/
def step (s : State) : Host.Outcome State Fault Refusal :=
  if s.halted || s.fault.isSome then .next s
  else
    match s.fetchDecode with
    | .ok i _ => exec i s
    | .noWord => raise (.unmappedFetch s.pc)
    | .illegal w => unallocatedWord w s
    | .noSecondWord => raise (.unmappedFetch (s.pc + 1))

/-- R255's result of a step as a state: the new state, or the old state with a fault recorded. A refusal leaves the state as it is. -/
def stepRecorded (s : State) : State :=
  match step s with
  | .next t => t
  | .fault f => s.recordFault f
  | .refused _ => s

/-- The same instruction words at the pc of `s`, ready to run: the words are loaded at the pc (70_reset_and_hazards.md R263), and a halt or a recorded fault, under which no step is taken (R245 (1)), is lifted (log entry 31). -/
def State.withFetchWord (s : State) (nbits w : Nat) : State :=
  { s.load s.pc (tableWords nbits w) with halted := false, fault := none }

end Sys2Proof.Machine
end

