-- ==== Sys2Proof/Machine/Cycles.lean ====
section
/-! DEFINITION. The Cycles column (70_reset_and_hazards.md R266 to R268): what an instruction costs, what a step costs and what a run costs. Cycles are no state (60_exceptions.md R250): they are functions of the state a step starts from, and no meaning depends on them. -/

namespace Sys2Proof.Machine

/-- The condition an instruction depends on (00_scope.md R14); the unconditional ones have `always`. -/
def conditionOf : Instr → Cond
  | .ldi _ _ => .always
  | .ani _ _ => .always
  | .ori _ _ => .always
  | .xoi _ _ => .always
  | .adi _ _ => .always
  | .aci _ _ => .always
  | .cpi _ _ => .always
  | .inp _ _ => .always
  | .out _ _ => .always
  | .mov _ _ => .always
  | .and _ _ => .always
  | .or _ _ => .always
  | .xor _ _ => .always
  | .add _ _ => .always
  | .adc _ _ => .always
  | .cmp _ _ => .always
  | .sub _ _ => .always
  | .sbb _ _ => .always
  | .sri _ _ => .always
  | .srd _ _ => .always
  | .lri _ _ => .always
  | .lrd _ _ => .always
  | .str _ _ _ => .always
  | .ldr _ _ _ => .always
  | .api _ _ => .always
  | .br _ => .always
  | .bc _ => .c
  | .bnc _ => .nc
  | .bz _ => .z
  | .bnz _ => .nz
  | .bn _ => .n
  | .bnn _ => .nn
  | .sll _ => .always
  | .srl _ => .always
  | .sra _ => .always
  | .rlc _ => .always
  | .rrc _ => .always
  | .not _ => .always
  | .pop _ => .always
  | .jmpi _ => .always
  | .jci _ => .c
  | .jnci _ => .nc
  | .jzi _ => .z
  | .jnzi _ => .nz
  | .jni _ => .n
  | .jnni _ => .nn
  | .jmp _ => .always
  | .jc _ => .c
  | .jnc _ => .nc
  | .jz _ => .z
  | .jnz _ => .nz
  | .jn _ => .n
  | .jnn _ => .nn
  | .call _ => .always
  | .cc _ => .c
  | .cnc _ => .nc
  | .cz _ => .z
  | .cnz _ => .nz
  | .cn _ => .n
  | .cnn _ => .nn
  | .ret => .always
  | .rc => .c
  | .rnc => .nc
  | .rz => .z
  | .rnz => .nz
  | .rn => .n
  | .rnn => .nn
  | .pus => .always
  | .pos => .always
  | .nop => .always
  | .hlt => .always
  | .ssr _ => .always
  | .csr _ => .always
  | .mvp _ _ => .always

/-- The cost of an instruction whose condition holds (R267); RET costs 3 (R266). -/
def takenCost : Instr → Nat
  | .ldi _ _ => 1
  | .ani _ _ => 1
  | .ori _ _ => 1
  | .xoi _ _ => 1
  | .adi _ _ => 1
  | .aci _ _ => 1
  | .cpi _ _ => 1
  | .inp _ _ => 2
  | .out _ _ => 1
  | .mov _ _ => 1
  | .and _ _ => 1
  | .or _ _ => 1
  | .xor _ _ => 1
  | .add _ _ => 1
  | .adc _ _ => 1
  | .cmp _ _ => 1
  | .sub _ _ => 1
  | .sbb _ _ => 1
  | .sri _ _ => 1
  | .srd _ _ => 1
  | .lri _ _ => 2
  | .lrd _ _ => 2
  | .str _ _ _ => 1
  | .ldr _ _ _ => 2
  | .api _ _ => 1
  | .br _ => 1
  | .bc _ => 1
  | .bnc _ => 1
  | .bz _ => 1
  | .bnz _ => 1
  | .bn _ => 1
  | .bnn _ => 1
  | .sll _ => 1
  | .srl _ => 1
  | .sra _ => 1
  | .rlc _ => 1
  | .rrc _ => 1
  | .not _ => 1
  | .pop _ => 2
  | .jmpi _ => 1
  | .jci _ => 1
  | .jnci _ => 1
  | .jzi _ => 1
  | .jnzi _ => 1
  | .jni _ => 1
  | .jnni _ => 1
  | .jmp _ => 2
  | .jc _ => 2
  | .jnc _ => 2
  | .jz _ => 2
  | .jnz _ => 2
  | .jn _ => 2
  | .jnn _ => 2
  | .call _ => 2
  | .cc _ => 2
  | .cnc _ => 2
  | .cz _ => 2
  | .cnz _ => 2
  | .cn _ => 2
  | .cnn _ => 2
  | .ret => 3
  | .rc => 3
  | .rnc => 3
  | .rz => 3
  | .rnz => 3
  | .rn => 3
  | .rnn => 3
  | .pus => 1
  | .pos => 2
  | .nop => 1
  | .hlt => 1
  | .ssr _ => 1
  | .csr _ => 1
  | .mvp _ _ => 1

/-- The cost of an instruction in a state in which it completes (R266, R267): 1 where its condition is false. -/
def cycles (i : Instr) (s : State) : Nat :=
  if s.cond (conditionOf i) then takenCost i else 1

/-- The cost of a step (R267): that of the instruction it completes; a step that is not taken or does not complete has none. -/
def stepCost (s : State) : Nat :=
  if s.halted || s.fault.isSome then 0
  else
    match s.fetchDecode with
    | .ok i _ =>
      match exec i s with
      | .next _ => cycles i s
      | .fault _ => 0
      | .refused _ => 0
    | .noWord => 0
    | .illegal _ => 0
    | .noSecondWord => 0

/-- The cost of the first `k` steps of a run, up to a stop (R268). -/
def runCost : Nat → State → Nat
  | 0, _ => 0
  | k + 1, s =>
    stepCost s +
      match step s with
      | .next t => runCost k t
      | .fault _ => 0
      | .refused _ => 0

end Sys2Proof.Machine
end

