-- ==== Sys2Proof/Safety.lean ====
section
/-! DEFINITION. The terms that claims use: launch states (70_reset_and_hazards.md R260), how a run ends (60_exceptions.md R252), runs without a model fault (R243), the invariant of the machine, and what a step keeps. -/

namespace Sys2Proof.Machine

/-! ### Launch states and runs -/

/-- A launch state (R260): what the spec fixes is as it says; registers, `s`, the data space, the program, the parameters and the model's counters are anything. -/
def State.isLaunch (s : State) : Prop :=
  s.pc = s.cfg.resetPc ∧ s.stk = [] ∧ s.halted = false ∧ s.fault = none ∧ s.iolog = []

/-- After `k` steps from `s`, none of them stopping, the state is `t`. -/
def Reaches (k : Nat) (s t : State) : Prop := Sys2Proof.core.run k s = .next t

/-- R252 (a): the run from `s` ends in a halt, in the state `t`. -/
def HaltsIn (s t : State) : Prop := ∃ k, Reaches k s t ∧ t.halted = true

/-- R243: no step that the run from `s` reaches raises a model fault or is refused. -/
def FaultFree (s : State) : Prop := ∀ k, ∃ t, Reaches k s t

/-! ### The invariant -/

/-- What every step keeps: the parameters are legal (00_scope.md R8), both memories are in canonical form, the stack holds at most STACK_DEPTH items (10_state.md R32). -/
def State.Inv (s : State) : Prop :=
  s.cfg.wf = true ∧ Memory.wf s.dmem = true ∧ IMem.wf s.imem = true ∧ s.stk.length ≤ s.cfg.stackDepth

/-- No item of the stack is of the kind POP takes (10_state.md R32). -/
def State.NoByteItem (s : State) : Prop := ∀ b : Byte, StackItem.byte b ∉ s.stk

/-! ### Frames -/

/-- Every register outside `written` is unchanged. -/
def RegsKept (written : List RegNum) (s t : State) : Prop :=
  ∀ r : RegNum, r ∉ written → t.readReg r = s.readReg r

/-- Every bit of `s` that holds none of the `written` flags is unchanged. -/
def StatusKept (written : List Flag) (s t : State) : Prop :=
  ∀ j : Fin 4, (∀ f ∈ written, s.cfg.flagBit f ≠ j) → t.status.getLsbD j = s.status.getLsbD j

/-- Every data byte is unchanged. -/
def DataKept (s t : State) : Prop := ∀ a : Word, t.dataByte a = s.dataByte a

/-- Every data byte but the one at `addr` is unchanged. -/
def DataKeptBut (addr : Word) (s t : State) : Prop := ∀ a : Word, a ≠ addr → t.dataByte a = s.dataByte a

/-- The stack is unchanged. -/
def StackKept (s t : State) : Prop := t.stk = s.stk

/-- The record of I/O accesses, and the count of bytes drawn, are unchanged. -/
def IoKept (s t : State) : Prop := t.iolog = s.iolog ∧ t.ioReads = s.ioReads

/-- The halt bit, the fault record, the program and the parameters are unchanged. -/
def RunKept (s t : State) : Prop :=
  t.halted = s.halted ∧ t.fault = s.fault ∧ t.imem = s.imem ∧ t.cfg = s.cfg

/-- The flags an instruction that writes a register or a pair leaves to a draw (10_state.md R29): none under `conventional`, all three under `havoc`. -/
def drawnFlags (s : State) : List Flag :=
  match s.cfg.flagModel with
  | .conventional => []
  | .havoc => [.c, .z, .n]

/-- One flag draw is counted under `havoc`, none under `conventional` (log entry 12). -/
def DrawCounted (s t : State) : Prop :=
  t.flagDraws = s.flagDraws + s.cfg.flagModel.draws

/-- Only the registers in `regs` and the flags in `flags` may have changed, beside the pc. -/
def OnlyRegsAndFlags (regs : List RegNum) (flags : List Flag) (s t : State) : Prop :=
  RegsKept regs s t ∧ StatusKept flags s t ∧ DataKept s t ∧ StackKept s t ∧ IoKept s t ∧ RunKept s t

/-- Only the pc may have changed. -/
def OnlyPc (s t : State) : Prop :=
  OnlyRegsAndFlags [] [] s t ∧ t.flagDraws = s.flagDraws

/-- Only the pc and the stack may have changed. -/
def OnlyPcAndStack (s t : State) : Prop :=
  RegsKept [] s t ∧ StatusKept [] s t ∧ DataKept s t ∧ IoKept s t ∧ RunKept s t ∧ t.flagDraws = s.flagDraws

/-! ### What instructions write, from the spec's lists -/

/-- The general registers an instruction writes (10_state.md R22). -/
def registersWritten : Instr → List RegNum
  | .ldi rd _ => [rd]
  | .ani rd _ => [rd]
  | .ori rd _ => [rd]
  | .xoi rd _ => [rd]
  | .adi rd _ => [rd]
  | .aci rd _ => [rd]
  | .cpi _ _ => []
  | .inp rd _ => [rd]
  | .out _ _ => []
  | .mov rd _ => [rd]
  | .and rd _ => [rd]
  | .or rd _ => [rd]
  | .xor rd _ => [rd]
  | .add rd _ => [rd]
  | .adc rd _ => [rd]
  | .cmp _ _ => []
  | .sub rd _ => [rd]
  | .sbb rd _ => [rd]
  | .sri _ p => [evenReg p, oddReg p]
  | .srd _ p => [evenReg p, oddReg p]
  | .lri rd p => [rd, evenReg p, oddReg p]
  | .lrd rd p => [rd, evenReg p, oddReg p]
  | .str _ _ _ => []
  | .ldr rd _ _ => [rd]
  | .api p _ => [evenReg p, oddReg p]
  | .br _ => []
  | .bc _ => []
  | .bnc _ => []
  | .bz _ => []
  | .bnz _ => []
  | .bn _ => []
  | .bnn _ => []
  | .sll rd => [rd]
  | .srl rd => [rd]
  | .sra rd => [rd]
  | .rlc rd => [rd]
  | .rrc rd => [rd]
  | .not rd => [rd]
  | .pop rd => [rd]
  | .jmpi _ => []
  | .jci _ => []
  | .jnci _ => []
  | .jzi _ => []
  | .jnzi _ => []
  | .jni _ => []
  | .jnni _ => []
  | .jmp _ => []
  | .jc _ => []
  | .jnc _ => []
  | .jz _ => []
  | .jnz _ => []
  | .jn _ => []
  | .jnn _ => []
  | .call _ => []
  | .cc _ => []
  | .cnc _ => []
  | .cz _ => []
  | .cnz _ => []
  | .cn _ => []
  | .cnn _ => []
  | .ret => []
  | .rc => []
  | .rnc => []
  | .rz => []
  | .rnz => []
  | .rn => []
  | .rnn => []
  | .pus => []
  | .pos => []
  | .nop => []
  | .hlt => []
  | .ssr _ => []
  | .csr _ => []
  | .mvp pd _ => [evenReg pd, oddReg pd]

/-- The flags the table of 10_state.md R29 gives an instruction, beside POS, SSR and CSR, which write `s` as a whole. -/
def flagsWritten : Instr → List Flag
  | .ldi _ _ => []
  | .ani _ _ => [.z, .n]
  | .ori _ _ => [.z, .n]
  | .xoi _ _ => [.z, .n]
  | .adi _ _ => [.c, .z, .n]
  | .aci _ _ => [.c, .z, .n]
  | .cpi _ _ => [.c, .z, .n]
  | .inp _ _ => []
  | .out _ _ => []
  | .mov _ _ => []
  | .and _ _ => [.z, .n]
  | .or _ _ => [.z, .n]
  | .xor _ _ => [.z, .n]
  | .add _ _ => [.c, .z, .n]
  | .adc _ _ => [.c, .z, .n]
  | .cmp _ _ => [.c, .z, .n]
  | .sub _ _ => [.c, .z, .n]
  | .sbb _ _ => [.c, .z, .n]
  | .sri _ _ => []
  | .srd _ _ => []
  | .lri _ _ => []
  | .lrd _ _ => []
  | .str _ _ _ => []
  | .ldr _ _ _ => []
  | .api _ _ => []
  | .br _ => []
  | .bc _ => []
  | .bnc _ => []
  | .bz _ => []
  | .bnz _ => []
  | .bn _ => []
  | .bnn _ => []
  | .sll _ => [.c, .z, .n]
  | .srl _ => [.c, .z, .n]
  | .sra _ => [.c, .z, .n]
  | .rlc _ => [.c, .z, .n]
  | .rrc _ => [.c, .z, .n]
  | .not _ => [.z, .n]
  | .pop _ => []
  | .jmpi _ => []
  | .jci _ => []
  | .jnci _ => []
  | .jzi _ => []
  | .jnzi _ => []
  | .jni _ => []
  | .jnni _ => []
  | .jmp _ => []
  | .jc _ => []
  | .jnc _ => []
  | .jz _ => []
  | .jnz _ => []
  | .jn _ => []
  | .jnn _ => []
  | .call _ => []
  | .cc _ => []
  | .cnc _ => []
  | .cz _ => []
  | .cnz _ => []
  | .cn _ => []
  | .cnn _ => []
  | .ret => []
  | .rc => []
  | .rnc => []
  | .rz => []
  | .rnz => []
  | .rn => []
  | .rnn => []
  | .pus => []
  | .pos => []
  | .nop => []
  | .hlt => []
  | .ssr _ => []
  | .csr _ => []
  | .mvp _ _ => []

/-- The flags that may have changed after an instruction: those of the table of R29, and under `havoc` all three where it writes a flag or a register (log entry 12). -/
def flagsOpen (i : Instr) (s : State) : List Flag :=
  flagsWritten i ++ (if flagsWritten i = [] ∧ registersWritten i = [] then [] else drawnFlags s)

/-- POS, SSR and CSR: the instructions whose new `s` the source states (10_state.md R31). -/
def WritesStatusWhole (i : Instr) : Prop := i = .pos ∨ (∃ m, i = .ssr m) ∨ (∃ m, i = .csr m)

/-- The instructions that transfer control (60_exceptions.md R248). -/
def IsTransfer (i : Instr) : Prop :=
  ∃ cond, (∃ a, i = .branch cond a) ∨ (∃ p, i = .indirect cond p) ∨ (∃ a, i = .jump cond a) ∨ (∃ a, i = .callTo cond a) ∨ i = .returnOn cond

/-- The instructions that reach the stack (20_memory.md R50). -/
def ReachesStack (i : Instr) : Prop :=
  (∃ cond a, i = .callTo cond a) ∨ (∃ cond, i = .returnOn cond) ∨ i = .pus ∨ i = .pos ∨ (∃ rd, i = .pop rd)

/-- The instructions that store to the data space (20_memory.md R58). -/
def IsStore (i : Instr) : Prop :=
  (∃ rs p, i = .sri rs p) ∨ (∃ rs p, i = .srd rs p) ∨ (∃ rs p k, i = .str rs p k)

/-- The instructions that load from the data space (20_memory.md R58). -/
def IsLoad (i : Instr) : Prop :=
  (∃ rd p, i = .lri rd p) ∨ (∃ rd p, i = .lrd rd p) ∨ (∃ rd p k, i = .ldr rd p k)

/-- The instructions that read C as data, a flag as a condition, or `s` as a whole (10_state.md R28). -/
def ReadsStatus (i : Instr) : Prop :=
  (∃ rd b, i = .aci rd b) ∨ (∃ rd rs, i = .adc rd rs) ∨ (∃ rd rs, i = .sbb rd rs) ∨ (∃ rd, i = .rlc rd) ∨ (∃ rd, i = .rrc rd) ∨
    conditionOf i ≠ .always ∨ i = .pus ∨ (∃ m, i = .ssr m) ∨ (∃ m, i = .csr m)

/-! ### What a result leaves -/

/-- The register `rd` holds `v`, the pc is past a one-word instruction, and nothing else has changed but the flags in `flags` and those left to a draw. -/
def WritesResult (rd : RegNum) (v : Byte) (flags : List Flag) (s t : State) : Prop :=
  t.readReg rd = v ∧ t.pc = s.pc + 1 ∧ OnlyRegsAndFlags [rd] (flags ++ drawnFlags s) s t ∧ DrawCounted s t

/-- Z and N tell of the byte `v` (10_state.md R29). -/
def ZeroNegativeOf (v : Byte) (t : State) : Prop := t.flag .z = (v == 0) ∧ t.flag .n = v.msb

/-- The registers of a pair. -/
def pairRegs (p : PairNum) : List RegNum := [evenReg p, oddReg p]

/-- Two states that agree in every field but `s`. -/
def SameButStatus (t u : State) : Prop := u = t.setStatus u.status

/-- Two states that agree in every field but `s`, the count of flag draws and, of the parameters, FLAG_MODEL. -/
def SameButFlags (t u : State) : Prop :=
  u = { t with status := u.status, flagDraws := u.flagDraws, cfg := { t.cfg with flagModel := u.cfg.flagModel } }

/-- Two outcomes of one kind: next states that are the same in the sense given, or one fault, or one refusal. -/
def OutcomesAgree (same : State → State → Prop) (a b : Result) : Prop :=
  (∃ t u, a = .next t ∧ b = .next u ∧ same t u) ∨ (∃ f, a = .fault f ∧ b = .fault f) ∨ (∃ r, a = .refused r ∧ b = .refused r)

/-- A state under another value of FLAG_MODEL. -/
def State.withFlagModel (s : State) (m : FlagModel) : State := { s with cfg := { s.cfg with flagModel := m } }

/-- What a logic instruction leaves: the result, Z and N from it, C as it was (10_state.md R29). -/
def LogicLeaves (rd : RegNum) (v : Byte) (s t : State) : Prop :=
  WritesResult rd v [.z, .n] s t ∧ (s.cfg.flagModel = .conventional → ZeroNegativeOf v t)

/-- What an instruction that writes all three flags leaves: the result, the given C, Z and N from the result (10_state.md R29). -/
def SumLeaves (rd : RegNum) (v : Byte) (carry : Bool) (s t : State) : Prop :=
  WritesResult rd v [.c, .z, .n] s t ∧ (s.cfg.flagModel = .conventional → t.flag .c = carry ∧ ZeroNegativeOf v t)

/-- What a compare of `x` with `y` leaves: no register, C from the unsigned order, Z and N from the difference (40 R127, 42 R142). -/
def CompareLeaves (x y : Byte) (s t : State) : Prop :=
  t.pc = s.pc + 1 ∧ OnlyRegsAndFlags [] [.c, .z, .n] s t ∧ DrawCounted s t ∧
    (s.cfg.flagModel = .conventional → t.flag .c = decide (y.toNat ≤ x.toNat) ∧ t.flag .z = (x == y) ∧ t.flag .n = (x - y).msb)

/-- What a store of `v` at `addr` leaves where it writes the registers `regs` and leaves the flags `flags` to a draw. -/
def StoreLeaves (addr : Word) (v : Byte) (regs : List RegNum) (flags : List Flag) (s t : State) : Prop :=
  t.dataByte addr = v ∧ DataKeptBut addr s t ∧ t.pc = s.pc + 1 ∧ RegsKept regs s t ∧ StatusKept flags s t ∧ StackKept s t ∧
    IoKept s t ∧ RunKept s t

/-- What an instruction leaves that goes on to the next word and writes nothing but the registers `regs` and the flags left to a draw. -/
def OnlyRegs (regs : List RegNum) (s t : State) : Prop :=
  t.pc = s.pc + 1 ∧ OnlyRegsAndFlags regs (drawnFlags s) s t ∧ DrawCounted s t

/-! ### Words -/

/-- The unallocated words, as 30_encoding.md R102 lists them. -/
def listedUnallocated (w : Word) : Prop :=
  (w.extractLsb' 0 4 = 0b0000#4 ∧ w ≠ 0x0000#16 ∧ w.extractLsb' 4 8 ≠ 0b11100010#8) ∨
  (w.extractLsb' 0 4 = 0b1010#4 ∧
    (w.extractLsb' 4 4 = 0b0000#4 ∨ w.extractLsb' 4 4 = 0b1010#4 ∨ w.extractLsb' 4 4 = 0b1011#4 ∨
      (w.extractLsb' 6 2 = 0b11#2 ∧ w.getLsbD 8 = true))) ∨
  (w.extractLsb' 0 4 = 0b1110#4 ∧ w.extractLsb' 13 3 = 0b111#3) ∨
  (w.extractLsb' 0 4 = 0b1111#4 ∧
    (w.extractLsb' 4 4 = 0b0000#4 ∨
      ((w.extractLsb' 4 4 = 0b0001#4 ∨ w.extractLsb' 4 4 = 0b0010#4 ∨ w.extractLsb' 4 4 = 0b0100#4) ∧
        (w.extractLsb' 13 3 = 0b111#3 ∨ w.getLsbD 12 = true ∨ w.extractLsb' 8 4 ≠ 0b1110#4)) ∨
      (w.extractLsb' 4 4 = 0b0011#4 ∧ (w.extractLsb' 13 3 = 0b111#3 ∨ w.getLsbD 12 = true ∨ w.getLsbD 8 = true)) ∨
      ((w.extractLsb' 4 4 = 0b0101#4 ∨ w.extractLsb' 4 4 = 0b0110#4) ∧ w.extractLsb' 8 8 ≠ 0b00001110#8) ∨
      ((w.extractLsb' 4 4 = 0b0111#4 ∨ w.extractLsb' 4 4 = 0b1000#4) ∧ w.extractLsb' 12 4 ≠ 0b0000#4) ∨
      (w.extractLsb' 4 4 = 0b1001#4 ∧ (w.getLsbD 12 = true ∨ w.getLsbD 8 = true)) ∨
      (10 ≤ (w.extractLsb' 4 4).toNat ∧ w.extractLsb' 8 4 ≠ 0b0000#4)))

/-! ### Repetition -/

/-- The same instruction `n` times over. -/
def execTimes : Nat → Instr → State → Result
  | 0, _, s => .next s
  | n + 1, i, s =>
    match exec i s with
    | .next t => execTimes n i t
    | .fault f => .fault f
    | .refused r => .refused r

end Sys2Proof.Machine
end

