-- ==== Sys2Proof/Certificates/Slice0/Obligations.lean ====
section
/-! DEFINITION. The statements for the provers. Rule numbers are those of spec/; a docstring names the decision of the spec or the log entry that a statement rests on. -/

section

open Sys2Proof Sys2Proof.Machine

/-! ### Encoding and decoding -/

/-- O1. One word of every format, written out from the spec, decodes to its instruction. A sanity statement: the words are the examples of 40_type_r-i.md to 49_type_m_p-p.md. -/
def Obligations.SampleWordsDecodeAsTheSpecSays : Prop :=
  decode Config.default [0x3A51] = .ok (.ldi 3 0xA5) [] ∧
  decode Config.default [0x2108] = .ok (.inp 2 0x10) [] ∧
  decode Config.default [0x2FF9] = .ok (.out 2 0xFF) [] ∧
  decode Config.default [0x121A] = .ok (.mov 1 2) [] ∧
  decode Config.default [0x349A] = .ok (.sbb 3 4) [] ∧
  decode Config.default [0x14CA] = .ok (.sri 1 2) [] ∧
  decode Config.default [0x14FA] = .ok (.lrd 1 2) [] ∧
  decode Config.default [0x145B] = .ok (.str 1 2 5) [] ∧
  decode Config.default [0x15FC] = .ok (.ldr 1 2 31) [] ∧
  decode Config.default [0x344D] = .ok (.api 2 100) [] ∧
  decode Config.default [0x5FFE] = .ok (.bnc 0x1FF) [] ∧
  decode Config.default [0x50CF] = .ok (.sra 5) [] ∧
  decode Config.default [0x5E20] = .ok (.pop 5) [] ∧
  decode Config.default [0x463F] = .ok (.jnci 3) [] ∧
  decode Config.default [0x6E2F, 0x0234] = .ok (.jz 0x0234) [] ∧
  decode Config.default [0xCE1F, 0x0300] = .ok (.cnn 0x0300) [] ∧
  decode Config.default [0xAE4F] = .ok .rn [] ∧
  decode Config.default [0x0E5F] = .ok .pus [] ∧
  decode Config.default [0x0E6F] = .ok .pos [] ∧
  decode Config.default [0x0000] = .ok .nop [] ∧
  decode Config.default [0x037F] = .ok (.ssr 3) [] ∧
  decode Config.default [0x068F] = .ok (.csr 6) [] ∧
  decode Config.default [0x249F] = .ok (.mvp 1 2) []

/-- O2. Decoding the encoding of any well-formed instruction gives it back, with every operand. Every operand at every value its field admits, with HLT where HLT_WORD is present (30_encoding.md R83 to R97, R105, R106). -/
def Obligations.DecodeOfEncode : Prop :=
  ∀ (cfg : Config) (i : Instr) (rest : List Word), cfg.wf = true → i.wellFormed cfg = true →
    decode cfg (encode cfg i ++ rest) = .ok i rest

/-- O3. Whatever the decoder reads is the encoding of what it answers: every word has one meaning. Reserved encodings do not fall through to a neighbour (30_encoding.md R102, R106). -/
def Obligations.EncodeOfDecode : Prop :=
  ∀ (cfg : Config) (words rest : List Word) (i : Instr), decode cfg words = .ok i rest →
    words = encode cfg i ++ rest ∧ i.wellFormed cfg = true

/-- O4. A word decodes to a mnemonic exactly when it matches the row of that mnemonic, and no two rows share a word. The table is that of 30_encoding.md R109; the decoder follows the procedure of R106. -/
def Obligations.DecoderAgreesWithTheOpcodeTable : Prop :=
  (∀ (cfg : Config) (w a : Word), cfg.hltWord ≠ some w → ∀ row ∈ opcodeTable,
    (row.covers w = true ↔ ∃ i rest, decode cfg [w, a] = .ok i rest ∧ i.mnemonic = row.mnemonic)) ∧
  opcodeTable.Pairwise (fun r q => ∀ w : Word, r.covers w = true → q.covers w = false) ∧
  opcodeTable.length = 73

/-- O5. The decoder refuses a first word exactly when the list of unallocated encodings holds it. The bit conditions are those of 30_encoding.md R102, which the spec derives from its format rules. -/
def Obligations.UnallocatedWordsAreThoseListed : Prop :=
  (∀ (cfg : Config) (w : Word) (rest : List Word), cfg.hltWord ≠ some w →
    (decode cfg (w :: rest) = .illegal w ↔ listedUnallocated w)) ∧
  ∀ w : Word, unallocated w = true ↔ listedUnallocated w

/-- O6. Every instruction is one word, except the fourteen of Type A, which are two: the first word selects the instruction, the second is the address. 30_encoding.md R80. `Instr.jump` and `Instr.callTo` are the seven jumps and the seven calls of Type A. -/
def Obligations.InstructionsAreOneWordButTypeA : Prop :=
  (∀ (cfg : Config) (i : Instr), i.wellFormed cfg = true →
    (∃ cond a w, (i = .jump cond a ∨ i = .callTo cond a) ∧ encode cfg i = [w, a] ∧
      ∀ b, (i = .jump cond a → encode cfg (.jump cond b) = [w, b]) ∧ (i = .callTo cond a → encode cfg (.callTo cond b) = [w, b])) ∨
    ((∀ cond a, i ≠ .jump cond a ∧ i ≠ .callTo cond a) ∧ ∃ w, encode cfg i = [w])) ∧
  ∀ (cfg : Config) (i j : Instr), cfg.wf = true → i.wellFormed cfg = true → j.wellFormed cfg = true →
    (encode cfg i).head? = (encode cfg j).head? →
    i = j ∨ ∃ cond a b, (i = .jump cond a ∧ j = .jump cond b) ∨ (i = .callTo cond a ∧ j = .callTo cond b)

/-- O7. The seven condition selectors read their flags, selector 111 names none, and four families use the one table. 00_scope.md R14. `decodeFirst` is the decoder without HLT_WORD (30_encoding.md R106, step 2). -/
def Obligations.ConditionSelectorsAsTabled : Prop :=
  (∀ s : State,
    (Cond.ofSelector 0b000).map s.cond = some true ∧
    (Cond.ofSelector 0b001).map s.cond = some (s.flag .c == true) ∧
    (Cond.ofSelector 0b010).map s.cond = some (s.flag .c == false) ∧
    (Cond.ofSelector 0b011).map s.cond = some (s.flag .z == true) ∧
    (Cond.ofSelector 0b100).map s.cond = some (s.flag .z == false) ∧
    (Cond.ofSelector 0b101).map s.cond = some (s.flag .n == true) ∧
    (Cond.ofSelector 0b110).map s.cond = some (s.flag .n == false) ∧
    Cond.ofSelector 0b111 = none) ∧
  (∀ (ccc : BitVec 3) (a : BitVec 9),
    decodeFirst (ccc ++ a ++ 0b1110#4) = (match Cond.ofSelector ccc with | some cond => .one (.branch cond a) | none => .unallocated)) ∧
  (∀ (ccc : BitVec 3) (p : PairNum),
    decodeFirst (ccc ++ 0b0#1 ++ p ++ 0b000111111#9) = (match Cond.ofSelector ccc with | some cond => .one (.indirect cond p) | none => .unallocated)) ∧
  (∀ ccc : BitVec 3,
    decodeFirst (ccc ++ 0b0111000101111#13) = (match Cond.ofSelector ccc with | some cond => .jump cond | none => .unallocated)) ∧
  (∀ ccc : BitVec 3,
    decodeFirst (ccc ++ 0b0111000011111#13) = (match Cond.ofSelector ccc with | some cond => .call cond | none => .unallocated)) ∧
  (∀ ccc : BitVec 3,
    decodeFirst (ccc ++ 0b0111001001111#13) = (match Cond.ofSelector ccc with | some cond => .one (.returnOn cond) | none => .unallocated))

/-! ### The step -/

/-- O8. A step of a running machine is the meaning of the instruction that the words at the pc decode to. 60_exceptions.md R255. -/
def Obligations.StepRunsTheDecodedInstruction : Prop :=
  ∀ (s : State) (w : Word) (i : Instr) (rest : List Word), s.halted = false → s.fault = none →
    IMem.read s.imem s.pc.toNat = some w →
    decode s.cfg (w :: (IMem.read s.imem (s.pc + 1).toNat).toList) = .ok i rest →
    step s = exec i s

/-- O9. An unmapped pc, an unallocated word and a missing second word fault before any condition is looked at. 60_exceptions.md R245 (2), (3), (5); 30_encoding.md R103; log entries 19 and 35. -/
def Obligations.FetchAndDecodeFaultsInTheirOrder : Prop :=
  ∀ s : State, s.halted = false → s.fault = none →
    (IMem.read s.imem s.pc.toNat = none → step s = .fault (.unmappedFetch s.pc)) ∧
    (∀ w, IMem.read s.imem s.pc.toNat = some w → s.cfg.hltWord ≠ some w → listedUnallocated w → s.cfg.strictDecode = true →
      step s = .fault (.illegalEncoding w s.pc)) ∧
    (∀ (cond : Cond) (w : Word), (w = cond.selector ++ 0b0111000101111#13 ∨ w = cond.selector ++ 0b0111000011111#13) →
      IMem.read s.imem s.pc.toNat = some w → s.cfg.hltWord ≠ some w → IMem.read s.imem (s.pc + 1).toNat = none →
      step s = .fault (.unmappedFetch (s.pc + 1)))

/-- O10. A model fault changes nothing but the fault record, and no later step changes anything. 60_exceptions.md R242, R255; log entry 9. -/
def Obligations.FaultIsRecordedAndFinal : Prop :=
  ∀ (s : State) (f : Fault), step s = .fault f →
    stepRecorded s = { s with fault := some f } ∧
    ∀ k, Sys2Proof.core.run k (stepRecorded s) = .next (stepRecorded s)

/-- O11. No instruction is refused, and under STRICT_DECODE no step is. 30_encoding.md R103; log entry 20. -/
def Obligations.NothingIsRefusedUnderStrictDecode : Prop :=
  ∀ s : State, (∀ i r, exec i s ≠ .refused r) ∧ (s.cfg.strictDecode = true → ∀ r, step s ≠ .refused r)

/-- O12. An instruction raises only the fault of its kind, and only in the situation that has no meaning. 60_exceptions.md R241 (3) to (8), R245 (4), (6) to (8), a decision of the spec (D18). -/
def Obligations.FaultsOfInstructionsAreThoseListed : Prop :=
  ∀ (i : Instr) (s : State) (f : Fault), exec i s = .fault f →
    (∃ a, f = .unmappedData a ∧ dataMapped s.cfg a = false ∧
      ((∃ r p, (i = .sri r p ∨ i = .srd r p ∨ ((i = .lri r p ∨ i = .lrd r p) ∧ r ∉ pairRegs p)) ∧ a = s.readPair p) ∨
        ∃ r p k, (i = .str r p k ∨ i = .ldr r p k) ∧ s.offsetAddress p k = .ok a)) ∨
    (f = .stackOverflow ∧ s.cfg.stackDepth ≤ s.stk.length ∧
      ((∃ cond a, i = .callTo cond a ∧ s.cond cond = true) ∨ i = .pus)) ∨
    (f = .stackUnderflow ∧ s.stk = [] ∧
      ((∃ cond, i = .returnOn cond ∧ s.cond cond = true) ∨ i = .pos ∨ ∃ rd, i = .pop rd)) ∨
    (f = .stackKindMismatch ∧ ∃ top rest, s.stk = top :: rest ∧
      ((∃ cond, i = .returnOn cond ∧ s.cond cond = true ∧ ∀ a, top ≠ .ret a) ∨
        (i = .pos ∧ ∀ v, top ≠ .stat v) ∨
        ((∃ rd, i = .pop rd) ∧ ∀ b, top ≠ .byte b))) ∨
    (f = .registerOverlap ∧ ∃ rd p, (i = .lri rd p ∨ i = .lrd rd p) ∧ rd ∈ pairRegs p) ∨
    (f = .ambiguousField ∧
      ((∃ cond a, i = .branch cond a ∧ s.cfg.brOffset = .refuseTopBit ∧ 256 ≤ a.toNat) ∨
        (∃ r p k, (i = .str r p k ∨ i = .ldr r p k) ∧ s.cfg.kOffset = .refuseTopBit ∧ 16 ≤ k.toNat) ∨
        (∃ p b, i = .api p b ∧ s.cfg.apiImm = .refuseTopBit ∧ 256 ≤ b.toNat)))

/-! ### Reset and what every step keeps -/

/-- O13. The reset state is a launch state of the default parameters and meets the invariant. 70_reset_and_hazards.md R260, 00_scope.md R8; the values of registers, s, data, program, STACK_DEPTH and HLT_WORD are the choices of the model (log entries 2 to 6 and 8). -/
def Obligations.ResetIsALaunchStateAndMeetsTheInvariant : Prop :=
  State.reset.Inv ∧ State.reset.isLaunch ∧ State.reset.pc = 0x0000 ∧ State.reset.cfg = Config.default ∧
  (∀ r, State.reset.readReg r = 0x00) ∧ State.reset.status = 0b0000 ∧ (∀ a, State.reset.dataByte a = 0x00) ∧
  (∀ a, State.reset.imemRead a = none) ∧ State.reset.NoByteItem ∧
  Config.default.pairHigh = .odd ∧ Config.default.sBitC = 0 ∧ Config.default.sBitZ = 1 ∧ Config.default.sBitN = 2 ∧
  Config.default.flagModel = .conventional ∧ Config.default.brBase = 0 ∧ Config.default.brOffset = .signed ∧
  Config.default.kOffset = .unsigned ∧ Config.default.apiImm = .signed ∧ Config.default.stackDepth = 4 ∧
  Config.default.hltWord = none ∧ Config.default.strictDecode = true ∧ Config.default.resetPc = 0x0000 ∧
  (∀ a, dataMapped Config.default a = true) ∧ Config.default.environment = ⟨0, .draw, .state, .state⟩

/-- O14. Every step keeps the parameters legal, both memories canonical and the stack within its depth. 10_state.md R32, R33; 00_scope.md R8. The canonical form of the memories is the own data layout of the model. -/
def Obligations.StepKeepsTheInvariant : Prop :=
  ∀ s t : State, s.Inv → Sys2Proof.Machine.step s = .next t → t.Inv

/-- O15. No run changes the instruction space, the parameters or the fault record. 20_memory.md R54, R65 (decision D5); log entry 28. -/
def Obligations.RunsKeepProgramAndParameters : Prop :=
  ∀ (k : Nat) (s t : State), Sys2Proof.core.run k s = .next t → t.imem = s.imem ∧ t.cfg = s.cfg ∧ t.fault = s.fault

/-- O16. The I/O log keeps every event: IN and OUT add theirs, no other instruction does, and no run removes one. 20_memory.md R55, R58 (decision D23). -/
def Obligations.LogOnlyGrowsByWhatInAndOutDo : Prop :=
  (∀ (i : Instr) (s t : State), exec i s = .next t →
    ((∀ rd io, i ≠ .inp rd io) ∧ (∀ rs io, i ≠ .out rs io) ∧ t.iolog = s.iolog) ∨
    (∃ rd io, i = .inp rd io ∧ t.iolog = s.iolog ++ [.input io (t.readReg rd)]) ∨
    (∃ rs io, i = .out rs io ∧ t.iolog = s.iolog ++ [.output io (s.readReg rs)])) ∧
  ∀ (k : Nat) (s t : State), Sys2Proof.core.run k s = .next t →
    s.iolog <+: t.iolog ∧ t.iolog.length ≤ s.iolog.length + k

/-- O17. HLT sets the halt bit, nothing else writes it, and nothing clears it. 10_state.md R34, 48_type_no_args.md R231 (decision D15). -/
def Obligations.OnlyHltHalts : Prop :=
  (∀ (i : Instr) (s t : State), exec i s = .next t → (t.halted = true ↔ s.halted = true ∨ i = .hlt)) ∧
  ∀ (k : Nat) (s : State), s.halted = true → Sys2Proof.core.run k s = .next s

/-- O18. Every instruction leaves all registers but those listed as written by it. 10_state.md R22, the writing half. -/
def Obligations.RegistersWrittenAreThoseListed : Prop :=
  ∀ (i : Instr) (s t : State), exec i s = .next t → RegsKept (registersWritten i) s t

/-- O19. Every instruction but POS, SSR and CSR leaves all bits of s but those of the flags its row of the flag table names. 10_state.md R29, R30, R31; log entries 12, 15 and 34. -/
def Obligations.FlagsWrittenAreThoseTabled : Prop :=
  ∀ (i : Instr) (s t : State), exec i s = .next t → ¬ WritesStatusWhole i → StatusKept (flagsOpen i s) s t

/-- O20. Only SRI, SRD and STR write data, one byte; only calls, returns, PUS, POS and POP move the stack, by one item. 20_memory.md R50, R58 (decisions D5, D12, D22); log entries 26 and 28. -/
def Obligations.DataAndStackAreReachedOnlyByTheirInstructions : Prop :=
  ∀ (i : Instr) (s t : State), exec i s = .next t →
    (¬ IsStore i → t.dmem = s.dmem) ∧
    (Memory.wf s.dmem = true →
      ∀ rs p, (i = .sri rs p ∨ i = .srd rs p → DataKeptBut (s.readPair p) s t) ∧
        ∀ k addr, i = .str rs p k → s.offsetAddress p k = .ok addr → DataKeptBut addr s t) ∧
    (¬ ReachesStack i → t.stk = s.stk) ∧
    (t.stk = s.stk ∨ (∃ item, t.stk = item :: s.stk) ∨ ∃ item, s.stk = item :: t.stk)

/-- O21. Every instruction that is no branch, jump, call or return goes on to the next word. 10_state.md R26, R27 (decision D4); 60_exceptions.md R248. -/
def Obligations.OnlyTransfersLeaveTheSequence : Prop :=
  ∀ (i : Instr) (s t : State), exec i s = .next t → ¬ IsTransfer i → t.pc = s.pc + 1

/-- O22. An instruction that reads no flag does the same whatever s holds. 10_state.md R28: ACI, ADC, SBB, RLC and RRC read C, the conditional transfers read a flag, PUS, SSR and CSR read `s`. It compares two runs, and its IN case rests on log entry 11 (DESIGN CHOICE, unsafe for such a claim): the byte drawn is one function of the history, which the two share; the count of draws is that of log entry 12, the flags written those of log entry 15. -/
def Obligations.OnlyReadersDependOnTheStatusRegister : Prop :=
  ∀ (i : Instr) (s : State) (v : Status), ¬ ReadsStatus i →
    OutcomesAgree SameButStatus (exec i s) (exec i (s.setStatus v)) ∧
    ∀ t u, s.cfg.wf = true → s.cfg.flagModel = .conventional → exec i s = .next t → exec i (s.setStatus v) = .next u →
      ∀ f ∈ flagsWritten i, t.flag f = u.flag f

/-- O23. FLAG_MODEL decides the flags and nothing else: registers, memory, stack, ports and pc agree under both. 10_state.md R29 (decision D7); log entry 12. It compares two runs, and its IN case (the byte in rd and in the log) rests on log entry 11 (DESIGN CHOICE, unsafe for such a claim): the byte drawn is one function of the history, which the two share. -/
def Obligations.FlagModelChangesOnlyFlags : Prop :=
  ∀ (i : Instr) (s : State),
    OutcomesAgree SameButFlags (exec i (s.withFlagModel .conventional)) (exec i (s.withFlagModel .havoc))

/-- O24. Every step keeps the stack free of Byte items, so every POP faults in every run from an empty stack. 45_type_r.md R187, 10_state.md R32, R33 (decisions D12, D16); log entries 21 and 26. The invariant `State.NoByteItem` holds at reset by O13. -/
def Obligations.PopFaultsInEveryRunFromAnEmptyStack : Prop :=
  (∀ s t : State, s.NoByteItem → Sys2Proof.Machine.step s = .next t → t.NoByteItem) ∧
  (∀ (s : State) (rd : RegNum), s.NoByteItem →
    exec (.pop rd) s = .fault (if s.stk = [] then .stackUnderflow else .stackKindMismatch)) ∧
  ∀ (k : Nat) (s t : State) (rd : RegNum), s.stk = [] → Sys2Proof.core.run k s = .next t →
    exec (.pop rd) t = .fault (if t.stk = [] then .stackUnderflow else .stackKindMismatch)

/-! ### Register and immediate, register and register -/

/-- O25. LDI and MOV complete in every state: rd takes the immediate or rs, and nothing else changes but the pc. 40_type_r-i.md R121, 42_type_r-r.md R136; that they write no flag is decision D7 (log entry 15). -/
def Obligations.LdiAndMovCopyTheirOperand : Prop :=
  ∀ (s : State) (rd rs : RegNum) (i : Byte),
    (∃ t, exec (.ldi rd i) s = .next t ∧ WritesResult rd i [] s t) ∧
    (∃ t, exec (.mov rd rs) s = .next t ∧ WritesResult rd (s.readReg rs) [] s t)

/-- O26. ANI, ORI, XOI, AND, OR, XOR and NOT complete in every state with legal parameters, with their result and Z and N. 40 R122 to R124, 42 R137 to R139, 45 R186; flags by 10_state.md R29 (log entry 15). -/
def Obligations.LogicInstructionsWriteResultZeroAndNegative : Prop :=
  ∀ (s : State) (rd rs : RegNum) (i : Byte), s.cfg.wf = true →
    (∃ t, exec (.ani rd i) s = .next t ∧ LogicLeaves rd (s.readReg rd &&& i) s t) ∧
    (∃ t, exec (.ori rd i) s = .next t ∧ LogicLeaves rd (s.readReg rd ||| i) s t) ∧
    (∃ t, exec (.xoi rd i) s = .next t ∧ LogicLeaves rd (s.readReg rd ^^^ i) s t) ∧
    (∃ t, exec (.and rd rs) s = .next t ∧ LogicLeaves rd (s.readReg rd &&& s.readReg rs) s t) ∧
    (∃ t, exec (.or rd rs) s = .next t ∧ LogicLeaves rd (s.readReg rd ||| s.readReg rs) s t) ∧
    (∃ t, exec (.xor rd rs) s = .next t ∧ LogicLeaves rd (s.readReg rd ^^^ s.readReg rs) s t) ∧
    (∃ t, exec (.not rd) s = .next t ∧ LogicLeaves rd (~~~s.readReg rd) s t)

/-- O27. ADI, ADD, ACI and ADC complete in every state with legal parameters: the sum modulo 2^8, and C set exactly when it does not fit. 40 R125, R126, 42 R140, R141; the adder is 00_scope.md R15; flags by 10_state.md R29 (log entry 15). -/
def Obligations.AdditionsWriteSumAndCarry : Prop :=
  ∀ (s : State) (rd rs : RegNum) (i : Byte), s.cfg.wf = true →
    (∃ t, exec (.adi rd i) s = .next t ∧
      SumLeaves rd (s.readReg rd + i) (decide (256 ≤ (s.readReg rd).toNat + i.toNat)) s t) ∧
    (∃ t, exec (.add rd rs) s = .next t ∧
      SumLeaves rd (s.readReg rd + s.readReg rs) (decide (256 ≤ (s.readReg rd).toNat + (s.readReg rs).toNat)) s t) ∧
    (∃ t, exec (.aci rd i) s = .next t ∧
      SumLeaves rd (s.readReg rd + i + BitVec.ofNat 8 (s.flag .c).toNat)
        (decide (256 ≤ (s.readReg rd).toNat + i.toNat + (s.flag .c).toNat)) s t) ∧
    (∃ t, exec (.adc rd rs) s = .next t ∧
      SumLeaves rd (s.readReg rd + s.readReg rs + BitVec.ofNat 8 (s.flag .c).toNat)
        (decide (256 ≤ (s.readReg rd).toNat + (s.readReg rs).toNat + (s.flag .c).toNat)) s t)

/-- O28. SUB and SBB complete in every state with legal parameters: the difference modulo 2^8, and C set exactly when there is no borrow. 42_type_r-r.md R143, R144; flags by 10_state.md R29 (log entry 15). -/
def Obligations.SubtractionsWriteDifferenceAndNoBorrow : Prop :=
  ∀ (s : State) (rd rs : RegNum), s.cfg.wf = true →
    (∃ t, exec (.sub rd rs) s = .next t ∧
      SumLeaves rd (s.readReg rd - s.readReg rs) (decide ((s.readReg rs).toNat ≤ (s.readReg rd).toNat)) s t) ∧
    (∃ t, exec (.sbb rd rs) s = .next t ∧
      SumLeaves rd (s.readReg rd - s.readReg rs - BitVec.ofNat 8 (1 - (s.flag .c).toNat))
        (decide ((s.readReg rs).toNat + (1 - (s.flag .c).toNat) ≤ (s.readReg rd).toNat)) s t)

/-- O29. CPI and CMP complete in every state with legal parameters, change no register, and set C, Z and N from the order. 40_type_r-i.md R127, 42_type_r-r.md R142 (decision D8); log entry 22. -/
def Obligations.ComparesWriteFlagsAndNoRegister : Prop :=
  ∀ (s : State) (rd rs : RegNum) (i : Byte), s.cfg.wf = true →
    (∃ t, exec (.cpi rd i) s = .next t ∧ CompareLeaves (s.readReg rd) i s t) ∧
    (∃ t, exec (.cmp rd rs) s = .next t ∧ CompareLeaves (s.readReg rd) (s.readReg rs) s t)

/-! ### Ports -/

/-- O30. IN completes in every state: rd takes the byte the environment answers, the log gains the access, and IN and OUT reach the environment. 41_type_r-io.md R131, 20_memory.md R55; that R55 is a decision of the spec (D23), and the form of the environment that of the model: log entry 11. -/
def Obligations.InWritesTheAnswerAndLogsIt : Prop :=
  ∀ (s : State) (rd : RegNum) (io : Byte),
    (∃ t, exec (.inp rd io) s = .next t ∧ t.readReg rd = s.ioAnswer io ∧
      t.iolog = s.iolog ++ [.input io (s.ioAnswer io)] ∧ t.ioReads = s.ioReads + 1 ∧ t.pc = s.pc + 1 ∧
      RegsKept [rd] s t ∧ StatusKept (drawnFlags s) s t ∧ DataKept s t ∧ StackKept s t ∧ RunKept s t ∧ DrawCounted s t) ∧
    s.ioAnswer io = BitVec.ofNat 8 (evalEnv s.envState io 0 (Config.freeInput s.ioReads s.iolog io) s.cfg.environment.answer) ∧
    (s.cfg.environment = .unconstrained → s.ioAnswer io = Config.freeInput s.ioReads s.iolog io) ∧
    (s.iolog = [] → s.envState = s.cfg.environment.start) ∧
    (∀ t, exec (.inp rd io) s = .next t → t.envState = evalEnv s.envState io (s.ioAnswer io) 0 s.cfg.environment.afterRead) ∧
    (∀ t, exec (.out rd io) s = .next t → t.envState = evalEnv s.envState io (s.readReg rd) 0 s.cfg.environment.afterWrite)

/-- O31. OUT appends the port and the byte of rs to the log, and changes nothing else but the pc. 41_type_r-io.md R132. -/
def Obligations.OutLogsTheByteSent : Prop :=
  ∀ (s : State) (rs : RegNum) (io : Byte),
    encode s.cfg (.out rs io) = [rs ++ io ++ 0b1001#4] ∧
    exec (.out rs io) s = .next { s with iolog := s.iolog ++ [.output io (s.readReg rs)], pc := s.pc + 1 } ∧
    cycles (.out rs io) s = 1

/-! ### Pairs, loads and stores -/

/-- O32. A pair is two registers: reading joins their bytes, writing sets both and no other, and it reads back. 10_state.md R23, R24 (decision D3); log entry 13. -/
def Obligations.PairsAreTwoRegisters : Prop :=
  ∀ (s : State) (p : PairNum) (v : Word),
    (s.cfg.pairHigh = .odd → (s.readPair p).toNat = 256 * (s.readReg (oddReg p)).toNat + (s.readReg (evenReg p)).toNat) ∧
    (s.cfg.pairHigh = .even → (s.readPair p).toNat = 256 * (s.readReg (evenReg p)).toNat + (s.readReg (oddReg p)).toNat) ∧
    (evenReg p).toNat = 2 * p.toNat ∧ (oddReg p).toNat = 2 * p.toNat + 1 ∧
    (s.writePair p v).readPair p = v ∧
    RegsKept (pairRegs p) s (s.writePair p v) ∧
    ∀ q, q ≠ p → (s.writePair p v).readPair q = s.readPair q

/-- O33. SRI and SRD complete where the address is mapped: the old rs is stored at the old pair, and the pair moves by one. 43 R150 to R152; that they write no flag is decision D7 (log entry 15), the wrap D30 (log entry 32). -/
def Obligations.PostModifyingStoresComplete : Prop :=
  ∀ (s : State) (rs : RegNum) (p : PairNum), Memory.wf s.dmem = true → dataMapped s.cfg (s.readPair p) = true →
    (∃ t, exec (.sri rs p) s = .next t ∧ t.readPair p = s.readPair p + 1 ∧
      StoreLeaves (s.readPair p) (s.readReg rs) (pairRegs p) (drawnFlags s) s t ∧ DrawCounted s t) ∧
    (∃ t, exec (.srd rs p) s = .next t ∧ t.readPair p = s.readPair p - 1 ∧
      StoreLeaves (s.readPair p) (s.readReg rs) (pairRegs p) (drawnFlags s) s t ∧ DrawCounted s t)

/-- O34. LRI and LRD complete where rd is outside the pair and the address is mapped: rd takes the byte and the pair moves by one. 43 R150, R153, R154; that they write no flag is decision D7 (log entry 15). -/
def Obligations.PostModifyingLoadsComplete : Prop :=
  ∀ (s : State) (rd : RegNum) (p : PairNum), rd ∉ pairRegs p → dataMapped s.cfg (s.readPair p) = true →
    (∃ t, exec (.lri rd p) s = .next t ∧ t.readReg rd = s.dataByte (s.readPair p) ∧ t.readPair p = s.readPair p + 1 ∧
      OnlyRegs (rd :: pairRegs p) s t) ∧
    (∃ t, exec (.lrd rd p) s = .next t ∧ t.readReg rd = s.dataByte (s.readPair p) ∧ t.readPair p = s.readPair p - 1 ∧
      OnlyRegs (rd :: pairRegs p) s t)

/-- O35. STR completes where its offset has a reading and its address is mapped: rs is stored at the pair plus the offset. 43 R155, R156 (decision D10); log entries 17 and 34. -/
def Obligations.StoreWithOffsetCompletes : Prop :=
  ∀ (s : State) (rs : RegNum) (p : PairNum) (k : BitVec 5) (x : Word), Memory.wf s.dmem = true →
    widen s.cfg.kOffset k = .ok x →
    s.offsetAddress p k = .ok (s.readPair p + x) ∧
    (dataMapped s.cfg (s.readPair p + x) = true →
      ∃ t, exec (.str rs p k) s = .next t ∧ StoreLeaves (s.readPair p + x) (s.readReg rs) [] [] s t ∧ t.flagDraws = s.flagDraws)

/-- O36. LDR completes where its offset has a reading and its address is mapped: rd takes the byte at the pair plus the offset. 43 R155, R157 (decision D10); log entry 17. -/
def Obligations.LoadWithOffsetCompletes : Prop :=
  ∀ (s : State) (rd : RegNum) (p : PairNum) (k : BitVec 5) (x : Word), widen s.cfg.kOffset k = .ok x →
    s.offsetAddress p k = .ok (s.readPair p + x) ∧
    (dataMapped s.cfg (s.readPair p + x) = true →
      ∃ t, exec (.ldr rd p k) s = .next t ∧ t.readReg rd = s.dataByte (s.readPair p + x) ∧ OnlyRegs [rd] s t)

/-- O37. API completes where its immediate has a reading: the pair takes the sum modulo 2^16. 43 R158 (decision D11); log entry 18. -/
def Obligations.AddPairImmediateCompletes : Prop :=
  ∀ (s : State) (p : PairNum) (i : BitVec 9) (imm : Word), widen s.cfg.apiImm i = .ok imm →
    ∃ t, exec (.api p i) s = .next t ∧ t.readPair p = s.readPair p + imm ∧ OnlyRegs (pairRegs p) s t

/-- O38. Widening keeps the signed value, or the unsigned value, or refuses a top bit, as the parameter says. 30_encoding.md R101 (decisions D9, D10, D11); log entries 16, 17 and 18. -/
def Obligations.OffsetsAndImmediatesAreWidenedAsTheParameterSays : Prop :=
  (∀ (n : Nat) (v : BitVec n), 1 ≤ n → n ≤ 16 →
    (∃ x : Word, widen .signed v = .ok x ∧ x.toInt = v.toInt) ∧
    (∃ x : Word, widen .unsigned v = .ok x ∧ x.toNat = v.toNat) ∧
    (v.toNat < 2 ^ (n - 1) → ∃ x : Word, widen .refuseTopBit v = .ok x ∧ x.toNat = v.toNat) ∧
    (2 ^ (n - 1) ≤ v.toNat → widen .refuseTopBit v = .error .ambiguousField)) ∧
  Config.default.brOffset = .signed ∧ Config.default.apiImm = .signed ∧ Config.default.kOffset = .unsigned

/-- O39. An unmapped address faults every load and store, and a load into its own pair faults before its address is looked at. 43 R150, R153 to R157, 20_memory.md R51 to R53, 60_exceptions.md R245 (6), (8); log entries 27 and 33. -/
def Obligations.DataFaultsLeaveNoEffect : Prop :=
  (∀ (s : State) (r : RegNum) (p : PairNum), dataMapped s.cfg (s.readPair p) = false →
    exec (.sri r p) s = .fault (.unmappedData (s.readPair p)) ∧
    exec (.srd r p) s = .fault (.unmappedData (s.readPair p)) ∧
    (r ∉ pairRegs p → exec (.lri r p) s = .fault (.unmappedData (s.readPair p)) ∧
      exec (.lrd r p) s = .fault (.unmappedData (s.readPair p)))) ∧
  (∀ (s : State) (r : RegNum) (p : PairNum), r ∈ pairRegs p →
    exec (.lri r p) s = .fault .registerOverlap ∧ exec (.lrd r p) s = .fault .registerOverlap) ∧
  (∀ (s : State) (r : RegNum) (p : PairNum) (k : BitVec 5) (addr : Word), s.offsetAddress p k = .ok addr →
    dataMapped s.cfg addr = false →
    exec (.str r p k) s = .fault (.unmappedData addr) ∧ exec (.ldr r p k) s = .fault (.unmappedData addr)) ∧
  ∀ a : Word, dataMapped Config.default a = true

/-- O40. Under refuse_top_bit a field with its top bit set faults, in a branch even where the condition is false. 30_encoding.md R101, 60_exceptions.md R245 (4); log entries 16, 17 and 18. -/
def Obligations.AmbiguousFieldsFault : Prop :=
  (∀ (s : State) (cond : Cond) (a : BitVec 9), s.cfg.brOffset = .refuseTopBit → 256 ≤ a.toNat →
    exec (.branch cond a) s = .fault .ambiguousField) ∧
  (∀ (s : State) (r : RegNum) (p : PairNum) (k : BitVec 5), s.cfg.kOffset = .refuseTopBit → 16 ≤ k.toNat →
    exec (.str r p k) s = .fault .ambiguousField ∧ exec (.ldr r p k) s = .fault .ambiguousField) ∧
  ∀ (s : State) (p : PairNum) (i : BitVec 9), s.cfg.apiImm = .refuseTopBit → 256 ≤ i.toNat →
    exec (.api p i) s = .fault .ambiguousField

/-- O41. A load reads the byte the latest store to its address left. 20_memory.md R52, R53, R61, R62 (decisions D22, D24, D30). -/
def Obligations.LoadReadsTheLatestStore : Prop :=
  (∀ (s t : State) (rs rd : RegNum) (p : PairNum) (k : BitVec 5), Memory.wf s.dmem = true →
    exec (.str rs p k) s = .next t → ∃ u, exec (.ldr rd p k) t = .next u ∧ u.readReg rd = s.readReg rs) ∧
  ∀ (s t : State) (rs rd : RegNum) (p : PairNum), Memory.wf s.dmem = true → rd ∉ pairRegs p →
    exec (.sri rs p) s = .next t → dataMapped s.cfg (s.readPair p + 1) = true →
    ∃ u v, exec (.lrd rd p) t = .next u ∧ exec (.lrd rd p) u = .next v ∧
      v.readReg rd = s.readReg rs ∧ v.readPair p = s.readPair p - 1

/-! ### Transfers of control -/

/-- O42. The seven relative branches write the pc and nothing else: pc + BR_BASE + offset where taken, pc + 1 where not. 44 R165 to R172 (decision D9); log entry 16. -/
def Obligations.RelativeBranchesSetThePc : Prop :=
  ∀ (s : State) (a : BitVec 9) (offset : Word), widen s.cfg.brOffset a = .ok offset →
    exec (.br a) s = .next { s with pc := s.pc + s.cfg.brBase.setWidth 16 + offset } ∧
    exec (.bc a) s = .next { s with pc := if s.flag .c then s.pc + s.cfg.brBase.setWidth 16 + offset else s.pc + 1 } ∧
    exec (.bnc a) s = .next { s with pc := if !s.flag .c then s.pc + s.cfg.brBase.setWidth 16 + offset else s.pc + 1 } ∧
    exec (.bz a) s = .next { s with pc := if s.flag .z then s.pc + s.cfg.brBase.setWidth 16 + offset else s.pc + 1 } ∧
    exec (.bnz a) s = .next { s with pc := if !s.flag .z then s.pc + s.cfg.brBase.setWidth 16 + offset else s.pc + 1 } ∧
    exec (.bn a) s = .next { s with pc := if s.flag .n then s.pc + s.cfg.brBase.setWidth 16 + offset else s.pc + 1 } ∧
    exec (.bnn a) s = .next { s with pc := if !s.flag .n then s.pc + s.cfg.brBase.setWidth 16 + offset else s.pc + 1 }

/-- O43. The seven indirect jumps write the pc and nothing else: the pair where taken, pc + 1 where not. 46 R190 to R197; the selectors of JMPI, JCI and JNCI are recovered from the row order (R190, 30_encoding.md R92, 90_conflicts.md C12; log entry 19, DEDUCED), the cost of JMPI from a displaced cell (70_reset_and_hazards.md R267, C20; log entry 30). -/
def Obligations.IndirectJumpsSetThePc : Prop :=
  ∀ (s : State) (p : PairNum),
    exec (.jmpi p) s = .next { s with pc := s.readPair p } ∧
    exec (.jci p) s = .next { s with pc := if s.flag .c then s.readPair p else s.pc + 1 } ∧
    exec (.jnci p) s = .next { s with pc := if !s.flag .c then s.readPair p else s.pc + 1 } ∧
    exec (.jzi p) s = .next { s with pc := if s.flag .z then s.readPair p else s.pc + 1 } ∧
    exec (.jnzi p) s = .next { s with pc := if !s.flag .z then s.readPair p else s.pc + 1 } ∧
    exec (.jni p) s = .next { s with pc := if s.flag .n then s.readPair p else s.pc + 1 } ∧
    exec (.jnni p) s = .next { s with pc := if !s.flag .n then s.readPair p else s.pc + 1 } ∧
    encode s.cfg (.jmpi p) = [0b000#3 ++ 0b0#1 ++ p ++ 0b0_0011_1111#9] ∧ cycles (.jmpi p) s = 1 ∧
    encode s.cfg (.jci p) = [0b001#3 ++ 0b0#1 ++ p ++ 0b0_0011_1111#9] ∧ cycles (.jci p) s = 1 ∧
    encode s.cfg (.jnci p) = [0b010#3 ++ 0b0#1 ++ p ++ 0b0_0011_1111#9] ∧ cycles (.jnci p) s = 1 ∧
    encode s.cfg (.jzi p) = [0b011#3 ++ 0b0#1 ++ p ++ 0b0_0011_1111#9] ∧ cycles (.jzi p) s = 1 ∧
    encode s.cfg (.jnzi p) = [0b100#3 ++ 0b0#1 ++ p ++ 0b0_0011_1111#9] ∧ cycles (.jnzi p) s = 1 ∧
    encode s.cfg (.jni p) = [0b101#3 ++ 0b0#1 ++ p ++ 0b0_0011_1111#9] ∧ cycles (.jni p) s = 1 ∧
    encode s.cfg (.jnni p) = [0b110#3 ++ 0b0#1 ++ p ++ 0b0_0011_1111#9] ∧ cycles (.jnni p) s = 1

/-- O44. JMP writes the pc with its second word and nothing else, and faults where that word is not mapped. 47 R201; the fault of an unmapped second word is of R200 and 20_memory.md R54, decisions of the spec (D14, D18, D29); log entries 33 and 35. -/
def Obligations.JmpSetsThePcToItsSecondWord : Prop :=
  (∀ (s : State) (a : Word),
    exec (.jmp a) s = .next { s with pc := a } ∧
    encode s.cfg (.jmp a) = [0b0000_1110_0010_1111, a] ∧ cycles (.jmp a) s = 2) ∧
  ∀ s : State, s.halted = false → s.fault = none → IMem.read s.imem s.pc.toNat = some 0b0000_1110_0010_1111 →
    s.cfg.hltWord ≠ some 0b0000_1110_0010_1111 →
    (∀ a, IMem.read s.imem (s.pc + 1).toNat = some a → step s = .next { s with pc := a }) ∧
    (IMem.read s.imem (s.pc + 1).toNat = none → step s = .fault (.unmappedFetch (s.pc + 1)))

/-- O45. The six conditional jumps write the pc and nothing else: the address where taken, pc + 2 where not. 47 R200, R202 to R207 (decision D14); log entries 19 and 35. -/
def Obligations.ConditionalJumpsSetThePc : Prop :=
  ∀ (s : State) (a : Word),
    exec (.jc a) s = .next { s with pc := if s.flag .c then a else s.pc + 2 } ∧ encode s.cfg (.jc a) = [0x2E2F, a] ∧
    exec (.jnc a) s = .next { s with pc := if !s.flag .c then a else s.pc + 2 } ∧ encode s.cfg (.jnc a) = [0x4E2F, a] ∧
    exec (.jz a) s = .next { s with pc := if s.flag .z then a else s.pc + 2 } ∧ encode s.cfg (.jz a) = [0x6E2F, a] ∧
    exec (.jnz a) s = .next { s with pc := if !s.flag .z then a else s.pc + 2 } ∧ encode s.cfg (.jnz a) = [0x8E2F, a] ∧
    exec (.jn a) s = .next { s with pc := if s.flag .n then a else s.pc + 2 } ∧ encode s.cfg (.jn a) = [0xAE2F, a] ∧
    exec (.jnn a) s = .next { s with pc := if !s.flag .n then a else s.pc + 2 } ∧ encode s.cfg (.jnn a) = [0xCE2F, a]

/-- O46. The seven calls push pc + 2 and go to the address where taken, go on where not, and fault where taken on a full stack. 47 R208 to R215, 10_state.md R33 (decisions D12, D13, D14); log entries 24 and 26. -/
def Obligations.CallsPushTheReturnAddressAndJump : Prop :=
  ∀ (s : State) (a : Word),
    (s.stk.length < s.cfg.stackDepth →
      exec (.call a) s = .next { s with pc := a, stk := .ret (s.pc + 2) :: s.stk } ∧
      exec (.cc a) s = .next (if s.flag .c then { s with pc := a, stk := .ret (s.pc + 2) :: s.stk } else { s with pc := s.pc + 2 }) ∧
      exec (.cnc a) s = .next (if !s.flag .c then { s with pc := a, stk := .ret (s.pc + 2) :: s.stk } else { s with pc := s.pc + 2 }) ∧
      exec (.cz a) s = .next (if s.flag .z then { s with pc := a, stk := .ret (s.pc + 2) :: s.stk } else { s with pc := s.pc + 2 }) ∧
      exec (.cnz a) s = .next (if !s.flag .z then { s with pc := a, stk := .ret (s.pc + 2) :: s.stk } else { s with pc := s.pc + 2 }) ∧
      exec (.cn a) s = .next (if s.flag .n then { s with pc := a, stk := .ret (s.pc + 2) :: s.stk } else { s with pc := s.pc + 2 }) ∧
      exec (.cnn a) s = .next (if !s.flag .n then { s with pc := a, stk := .ret (s.pc + 2) :: s.stk } else { s with pc := s.pc + 2 })) ∧
    (s.flag .c = false → exec (.cc a) s = .next { s with pc := s.pc + 2 }) ∧
    ((!s.flag .c) = false → exec (.cnc a) s = .next { s with pc := s.pc + 2 }) ∧
    (s.flag .z = false → exec (.cz a) s = .next { s with pc := s.pc + 2 }) ∧
    ((!s.flag .z) = false → exec (.cnz a) s = .next { s with pc := s.pc + 2 }) ∧
    (s.flag .n = false → exec (.cn a) s = .next { s with pc := s.pc + 2 }) ∧
    ((!s.flag .n) = false → exec (.cnn a) s = .next { s with pc := s.pc + 2 }) ∧
    (s.cfg.stackDepth ≤ s.stk.length →
      exec (.call a) s = .fault .stackOverflow ∧
      (s.flag .c = true → exec (.cc a) s = .fault .stackOverflow) ∧
      ((!s.flag .c) = true → exec (.cnc a) s = .fault .stackOverflow) ∧
      (s.flag .z = true → exec (.cz a) s = .fault .stackOverflow) ∧
      ((!s.flag .z) = true → exec (.cnz a) s = .fault .stackOverflow) ∧
      (s.flag .n = true → exec (.cn a) s = .fault .stackOverflow) ∧
      ((!s.flag .n) = true → exec (.cnn a) s = .fault .stackOverflow))

/-- O47. The seven returns pop a return address into the pc where taken, go on where not, and fault without one. 48 R220 to R227; the typed stack and its faults are of R220 and 10_state.md R33, a decision of the spec (D12); log entry 26. -/
def Obligations.ReturnsPopTheReturnAddress : Prop :=
  ∀ s : State,
    (∀ a rest, s.stk = .ret a :: rest →
      exec .ret s = .next { s with pc := a, stk := rest } ∧
      exec .rc s = .next (if s.flag .c then { s with pc := a, stk := rest } else { s with pc := s.pc + 1 }) ∧
      exec .rnc s = .next (if !s.flag .c then { s with pc := a, stk := rest } else { s with pc := s.pc + 1 }) ∧
      exec .rz s = .next (if s.flag .z then { s with pc := a, stk := rest } else { s with pc := s.pc + 1 }) ∧
      exec .rnz s = .next (if !s.flag .z then { s with pc := a, stk := rest } else { s with pc := s.pc + 1 }) ∧
      exec .rn s = .next (if s.flag .n then { s with pc := a, stk := rest } else { s with pc := s.pc + 1 }) ∧
      exec .rnn s = .next (if !s.flag .n then { s with pc := a, stk := rest } else { s with pc := s.pc + 1 })) ∧
    (s.flag .c = false → exec .rc s = .next { s with pc := s.pc + 1 }) ∧
    ((!s.flag .c) = false → exec .rnc s = .next { s with pc := s.pc + 1 }) ∧
    (s.flag .z = false → exec .rz s = .next { s with pc := s.pc + 1 }) ∧
    ((!s.flag .z) = false → exec .rnz s = .next { s with pc := s.pc + 1 }) ∧
    (s.flag .n = false → exec .rn s = .next { s with pc := s.pc + 1 }) ∧
    ((!s.flag .n) = false → exec .rnn s = .next { s with pc := s.pc + 1 }) ∧
    (s.stk = [] →
      exec .ret s = .fault .stackUnderflow ∧
      (s.flag .c = true → exec .rc s = .fault .stackUnderflow) ∧
      ((!s.flag .c) = true → exec .rnc s = .fault .stackUnderflow) ∧
      (s.flag .z = true → exec .rz s = .fault .stackUnderflow) ∧
      ((!s.flag .z) = true → exec .rnz s = .fault .stackUnderflow) ∧
      (s.flag .n = true → exec .rn s = .fault .stackUnderflow) ∧
      ((!s.flag .n) = true → exec .rnn s = .fault .stackUnderflow)) ∧
    (∀ top rest, s.stk = top :: rest → (∀ a, top ≠ .ret a) →
      exec .ret s = .fault .stackKindMismatch ∧
      (s.flag .c = true → exec .rc s = .fault .stackKindMismatch) ∧
      ((!s.flag .c) = true → exec .rnc s = .fault .stackKindMismatch) ∧
      (s.flag .z = true → exec .rz s = .fault .stackKindMismatch) ∧
      ((!s.flag .z) = true → exec .rnz s = .fault .stackKindMismatch) ∧
      (s.flag .n = true → exec .rn s = .fault .stackKindMismatch) ∧
      ((!s.flag .n) = true → exec .rnn s = .fault .stackKindMismatch)) ∧
    encode s.cfg .ret = [0x0E4F] ∧ (cycles .ret s = 1 ∨ cycles .ret s = 3) ∧
    encode s.cfg .rc = [0x2E4F] ∧ (cycles .rc s = 1 ∨ cycles .rc s = 3) ∧
    encode s.cfg .rnc = [0x4E4F] ∧ (cycles .rnc s = 1 ∨ cycles .rnc s = 3) ∧
    encode s.cfg .rz = [0x6E4F] ∧ (cycles .rz s = 1 ∨ cycles .rz s = 3) ∧
    encode s.cfg .rnz = [0x8E4F] ∧ (cycles .rnz s = 1 ∨ cycles .rnz s = 3) ∧
    encode s.cfg .rn = [0xAE4F] ∧ (cycles .rn s = 1 ∨ cycles .rn s = 3) ∧
    encode s.cfg .rnn = [0xCE4F] ∧ (cycles .rnn s = 1 ∨ cycles .rnn s = 3)

/-- O48. A taken return right after a taken call goes to the word after the call, and leaves all else as before the call. 47 R208, 48 R220 (decision D13); log entry 24. -/
def Obligations.ReturnUndoesCall : Prop :=
  ∀ (s t : State) (cond back : Cond) (a : Word), s.cond cond = true → exec (.callTo cond a) s = .next t → t.cond back = true →
    exec (.returnOn back) t = .next { s with pc := s.pc + 2 }

/-! ### Shifts, rotates, POP -/

/-- O49. SLL, SRL and SRA complete in every state with legal parameters: one place, and C takes the bit shifted out. 45 R181 to R183; flags by 10_state.md R29 (log entry 15). -/
def Obligations.ShiftsWriteResultAndTheBitShiftedOut : Prop :=
  ∀ (s : State) (rd : RegNum), s.cfg.wf = true →
    (∃ t, exec (.sll rd) s = .next t ∧ SumLeaves rd (s.readReg rd <<< 1) ((s.readReg rd).getLsbD 7) s t) ∧
    (∃ t, exec (.srl rd) s = .next t ∧ SumLeaves rd (s.readReg rd >>> 1) ((s.readReg rd).getLsbD 0) s t) ∧
    (∃ t, exec (.sra rd) s = .next t ∧ SumLeaves rd ((s.readReg rd).sshiftRight 1) ((s.readReg rd).getLsbD 0) s t)

/-- O50. RLC and RRC complete in every state with legal parameters and turn {c,rd} by one place; nine in a row restore both. 45 R184, R185, with the operation of the source `{c,rd} <= {rd,c}` and `{rd,c} <= {c,rd}`; Z and N by 10_state.md R29 (log entry 15). -/
def Obligations.RotatesTurnTheNineBitsOfCarryAndRegister : Prop :=
  ∀ (s : State) (rd : RegNum), s.cfg.wf = true →
    (∃ t, exec (.rlc rd) s = .next t ∧
      BitVec.ofBool (t.flag .c) ++ t.readReg rd = (s.readReg rd ++ BitVec.ofBool (s.flag .c)).cast (by decide) ∧
      WritesResult rd (t.readReg rd) [.c, .z, .n] s t ∧ (s.cfg.flagModel = .conventional → ZeroNegativeOf (t.readReg rd) t)) ∧
    (∃ t, exec (.rrc rd) s = .next t ∧
      t.readReg rd ++ BitVec.ofBool (t.flag .c) = (BitVec.ofBool (s.flag .c) ++ s.readReg rd).cast (by decide) ∧
      WritesResult rd (t.readReg rd) [.c, .z, .n] s t ∧ (s.cfg.flagModel = .conventional → ZeroNegativeOf (t.readReg rd) t)) ∧
    (∃ t, execTimes 9 (.rlc rd) s = .next t ∧ t.readReg rd = s.readReg rd ∧ t.flag .c = s.flag .c) ∧
    (∃ t, execTimes 9 (.rrc rd) s = .next t ∧ t.readReg rd = s.readReg rd ∧ t.flag .c = s.flag .c)

/-- O51. POP completes where a Byte item is on top: rd takes it and the item is gone; without one it faults. 45 R187, 10_state.md R33 (decisions D12, D16); log entries 21 and 26. -/
def Obligations.PopTakesAByteItem : Prop :=
  ∀ (s : State) (rd : RegNum),
    (∀ b rest, s.stk = .byte b :: rest →
      ∃ t, exec (.pop rd) s = .next t ∧ t.readReg rd = b ∧ t.stk = rest ∧ t.pc = s.pc + 1 ∧
        RegsKept [rd] s t ∧ StatusKept (drawnFlags s) s t ∧ DataKept s t ∧ IoKept s t ∧ RunKept s t ∧ DrawCounted s t) ∧
    (s.stk = [] → exec (.pop rd) s = .fault .stackUnderflow) ∧
    (∀ top rest, s.stk = top :: rest → (∀ b, top ≠ .byte b) → exec (.pop rd) s = .fault .stackKindMismatch)

/-! ### Status register, NOP, HLT, MVP -/

/-- O52. PUS pushes s and POS pops it, each changing nothing else but the pc; POS right after PUS restores all but the pc. 48 R228, R229. The clause on the bit that holds no flag is of 10_state.md R30 (decision D6, log entry 14, DEDUCED); the typed stack and its faults are of R33 (decision D12, log entry 26, DESIGN CHOICE). -/
def Obligations.PusAndPosSaveAndRestoreTheStatusRegister : Prop :=
  ∀ s : State,
    (s.stk.length < s.cfg.stackDepth →
      exec .pus s = .next { s with stk := .stat s.status :: s.stk, pc := s.pc + 1 } ∧
      exec .pos { s with stk := .stat s.status :: s.stk, pc := s.pc + 1 } = .next { s with pc := s.pc + 2 }) ∧
    (s.cfg.stackDepth ≤ s.stk.length → exec .pus s = .fault .stackOverflow) ∧
    (∀ v rest, s.stk = .stat v :: rest → exec .pos s = .next { s with status := v, stk := rest, pc := s.pc + 1 }) ∧
    (s.stk = [] → exec .pos s = .fault .stackUnderflow) ∧
    (∀ top rest, s.stk = top :: rest → (∀ v, top ≠ .stat v) → exec .pos s = .fault .stackKindMismatch) ∧
    (∀ i (t : State), exec i s = .next t → i ≠ .pos → (∀ m, i ≠ .ssr m) → (∀ m, i ≠ .csr m) →
      ∀ j : Fin 4, (∀ f, s.cfg.flagBit f ≠ j) → t.status.getLsbD j = s.status.getLsbD j) ∧
    encode s.cfg .pus = [0b0000_1110_0101_1111] ∧ cycles .pus s = 1 ∧
    encode s.cfg .pos = [0b0000_1110_0110_1111] ∧ cycles .pos s = 2

/-- O53. NOP changes nothing but the pc. 48 R230. -/
def Obligations.NopOnlyAdvancesThePc : Prop :=
  ∀ s : State, exec .nop s = .next { s with pc := s.pc + 1 } ∧ encode s.cfg .nop = [0x0000] ∧ cycles .nop s = 1

/-- O54. HLT sets the halt bit, leaves the pc one further, changes nothing else, and every later step changes nothing. 48 R231, 60_exceptions.md R252, 30_encoding.md R105 (decision D15); log entries 3 and 25. -/
def Obligations.HltHaltsAndEndsTheRun : Prop :=
  ∀ s : State,
    exec .hlt s = .next { s with halted := true, pc := s.pc + 1 } ∧ cycles .hlt s = 1 ∧
    (∀ k, Sys2Proof.core.run k { s with halted := true, pc := s.pc + 1 } = .next { s with halted := true, pc := s.pc + 1 }) ∧
    ∀ w, s.cfg.hltWord = some w → encode s.cfg .hlt = [w] ∧
      (s.halted = false → s.fault = none → IMem.read s.imem s.pc.toNat = some w →
        step s = .next { s with halted := true, pc := s.pc + 1 })

/-- O55. SSR sets the bits of s whose mask bit is 1, under both flag models, and changes nothing else but the pc. 49 R236; the operator OR is restored from the description (90_conflicts.md C1); log entry 23 (DESIGN CHOICE). -/
def Obligations.SsrSetsTheMaskedBits : Prop :=
  ∀ (s : State) (m : BitVec 4),
    exec (.ssr m) s = .next { s with status := s.status ||| m, pc := s.pc + 1 } ∧
    (∀ j : Fin 4, (s.status ||| m).getLsbD j = (s.status.getLsbD j || m.getLsbD j)) ∧
    encode s.cfg (.ssr m) = [0b0000#4 ++ m ++ 0b0111_1111#8] ∧ cycles (.ssr m) s = 1

/-- O56. CSR keeps the bits of s whose mask bit is 1 and clears the others, and changes nothing else but the pc. 49 R237 (decision D26); log entry 23. -/
def Obligations.CsrKeepsTheMaskedBits : Prop :=
  ∀ (s : State) (m : BitVec 4),
    exec (.csr m) s = .next { s with status := s.status &&& m, pc := s.pc + 1 } ∧
    (∀ j : Fin 4, (s.status &&& m).getLsbD j = (s.status.getLsbD j && m.getLsbD j)) ∧
    encode s.cfg (.csr m) = [0b0000#4 ++ m ++ 0b1000_1111#8] ∧ cycles (.csr m) s = 1

/-- O57. MVP completes in every state: both registers of pd take those of ps, whichever is the high byte, and nothing else changes. 49 R238; that it writes no flag is decision D7 (log entry 15). -/
def Obligations.MvpCopiesBothRegistersOfAPair : Prop :=
  ∀ (s : State) (pd ps : PairNum),
    ∃ t, exec (.mvp pd ps) s = .next t ∧ t.readReg (evenReg pd) = s.readReg (evenReg ps) ∧
      t.readReg (oddReg pd) = s.readReg (oddReg ps) ∧ t.readPair pd = s.readPair ps ∧ OnlyRegs (pairRegs pd) s t

/-! ### Chains of instructions, cost -/

/-- O58. ADD then ADC, and SUB then SBB, on the halves of two pairs give the sum and the difference of the pairs modulo 2^16. 42 R140, R141, R143, R144; flags by 10_state.md R29 (log entry 15). -/
def Obligations.TwoByteArithmeticIsPairArithmetic : Prop :=
  ∀ (s t u : State) (pd ps : PairNum), s.cfg.wf = true → s.cfg.flagModel = .conventional →
    (exec (.add (lowReg s.cfg pd) (lowReg s.cfg ps)) s = .next t →
      exec (.adc (highReg s.cfg pd) (highReg s.cfg ps)) t = .next u →
      u.readPair pd = s.readPair pd + s.readPair ps ∧
        u.flag .c = decide (65536 ≤ (s.readPair pd).toNat + (s.readPair ps).toNat)) ∧
    (exec (.sub (lowReg s.cfg pd) (lowReg s.cfg ps)) s = .next t →
      exec (.sbb (highReg s.cfg pd) (highReg s.cfg ps)) t = .next u →
      u.readPair pd = s.readPair pd - s.readPair ps ∧
        u.flag .c = decide ((s.readPair ps).toNat ≤ (s.readPair pd).toNat))

/-- O59. The cost of an instruction is that of the Cycles column, the smaller number where the condition is false. 70_reset_and_hazards.md R266, R267 (decision D28); log entry 30. -/
def Obligations.CostsAreThoseTabled : Prop :=
  ∀ (s : State) (r q : RegNum) (i : Byte) (p pp : PairNum) (k : BitVec 5) (b : BitVec 9) (m : BitVec 4) (a : Word) (cond : Cond),
    (∀ x ∈ [Instr.inp r i, .lri r p, .lrd r p, .ldr r p k, .pop r, .pos, .jmp a, .call a], cycles x s = 2) ∧
    cycles .ret s = 3 ∧
    cycles (.jump cond a) s = (if s.cond cond then 2 else 1) ∧
    cycles (.callTo cond a) s = (if s.cond cond then 2 else 1) ∧
    cycles (.returnOn cond) s = (if s.cond cond then 3 else 1) ∧
    cycles (.branch cond b) s = 1 ∧ cycles (.indirect cond p) s = 1 ∧
    (∀ x ∈ [Instr.ldi r i, .ani r i, .ori r i, .xoi r i, .adi r i, .aci r i, .cpi r i, .out r i, .mov r q, .and r q, .or r q, .xor r q,
      .add r q, .adc r q, .cmp r q, .sub r q, .sbb r q, .sri r p, .srd r p, .str r p k, .api p b, .sll r, .srl r, .sra r, .rlc r, .rrc r,
      .not r, .pus, .nop, .hlt, .ssr m, .csr m, .mvp p pp], cycles x s = 1)

/-! ### The bits of the status register -/

/-- O60. C, Z and N are the bits S_BIT_C, S_BIT_Z and S_BIT_N of s, read and written there, with no other bit touched. 10_state.md R30 (decision D6); log entry 14 (DEDUCED). The default places 0, 1 and 2 are in O13. -/
def Obligations.FlagsAreTheirBitsOfTheStatusRegister : Prop :=
  ∀ s : State,
    s.flag .c = s.status.getLsbD s.cfg.sBitC ∧
    s.flag .z = s.status.getLsbD s.cfg.sBitZ ∧
    s.flag .n = s.status.getLsbD s.cfg.sBitN ∧
    (∀ b, s.putFlag .c b = { s with status := (s.putFlag .c b).status } ∧
      ∀ j : Fin 4, (s.putFlag .c b).status.getLsbD j = if j = s.cfg.sBitC then b else s.status.getLsbD j) ∧
    (∀ b, s.putFlag .z b = { s with status := (s.putFlag .z b).status } ∧
      ∀ j : Fin 4, (s.putFlag .z b).status.getLsbD j = if j = s.cfg.sBitZ then b else s.status.getLsbD j) ∧
    (∀ b, s.putFlag .n b = { s with status := (s.putFlag .n b).status } ∧
      ∀ j : Fin 4, (s.putFlag .n b).status.getLsbD j = if j = s.cfg.sBitN then b else s.status.getLsbD j)

end
end

