-- ==== Sys2Proof/Laws/State.lean ====
section
/-! SUPPORT. One lemma per field per update of Machine/Ops.lean, each true by rfl, so that no proof unfolds a record update. -/

namespace Sys2Proof.Machine

/-! ### setPc -/

@[simp] theorem State.setPc_regs (s : State) (v : Word) : (s.setPc v).regs = s.regs := rfl
@[simp] theorem State.setPc_pc (s : State) (v : Word) : (s.setPc v).pc = v := rfl
@[simp] theorem State.setPc_status (s : State) (v : Word) : (s.setPc v).status = s.status := rfl
@[simp] theorem State.setPc_stk (s : State) (v : Word) : (s.setPc v).stk = s.stk := rfl
@[simp] theorem State.setPc_halted (s : State) (v : Word) : (s.setPc v).halted = s.halted := rfl
@[simp] theorem State.setPc_dmem (s : State) (v : Word) : (s.setPc v).dmem = s.dmem := rfl
@[simp] theorem State.setPc_iolog (s : State) (v : Word) : (s.setPc v).iolog = s.iolog := rfl
@[simp] theorem State.setPc_fault (s : State) (v : Word) : (s.setPc v).fault = s.fault := rfl
@[simp] theorem State.setPc_imem (s : State) (v : Word) : (s.setPc v).imem = s.imem := rfl
@[simp] theorem State.setPc_cfg (s : State) (v : Word) : (s.setPc v).cfg = s.cfg := rfl
@[simp] theorem State.setPc_ioReads (s : State) (v : Word) : (s.setPc v).ioReads = s.ioReads := rfl
@[simp] theorem State.setPc_flagDraws (s : State) (v : Word) : (s.setPc v).flagDraws = s.flagDraws := rfl

/-! ### setStatus -/

@[simp] theorem State.setStatus_regs (s : State) (v : Status) : (s.setStatus v).regs = s.regs := rfl
@[simp] theorem State.setStatus_pc (s : State) (v : Status) : (s.setStatus v).pc = s.pc := rfl
@[simp] theorem State.setStatus_status (s : State) (v : Status) : (s.setStatus v).status = v := rfl
@[simp] theorem State.setStatus_stk (s : State) (v : Status) : (s.setStatus v).stk = s.stk := rfl
@[simp] theorem State.setStatus_halted (s : State) (v : Status) : (s.setStatus v).halted = s.halted := rfl
@[simp] theorem State.setStatus_dmem (s : State) (v : Status) : (s.setStatus v).dmem = s.dmem := rfl
@[simp] theorem State.setStatus_iolog (s : State) (v : Status) : (s.setStatus v).iolog = s.iolog := rfl
@[simp] theorem State.setStatus_fault (s : State) (v : Status) : (s.setStatus v).fault = s.fault := rfl
@[simp] theorem State.setStatus_imem (s : State) (v : Status) : (s.setStatus v).imem = s.imem := rfl
@[simp] theorem State.setStatus_cfg (s : State) (v : Status) : (s.setStatus v).cfg = s.cfg := rfl
@[simp] theorem State.setStatus_ioReads (s : State) (v : Status) : (s.setStatus v).ioReads = s.ioReads := rfl
@[simp] theorem State.setStatus_flagDraws (s : State) (v : Status) : (s.setStatus v).flagDraws = s.flagDraws := rfl

/-! ### setStk -/

@[simp] theorem State.setStk_regs (s : State) (l : List StackItem) : (s.setStk l).regs = s.regs := rfl
@[simp] theorem State.setStk_pc (s : State) (l : List StackItem) : (s.setStk l).pc = s.pc := rfl
@[simp] theorem State.setStk_status (s : State) (l : List StackItem) : (s.setStk l).status = s.status := rfl
@[simp] theorem State.setStk_stk (s : State) (l : List StackItem) : (s.setStk l).stk = l := rfl
@[simp] theorem State.setStk_halted (s : State) (l : List StackItem) : (s.setStk l).halted = s.halted := rfl
@[simp] theorem State.setStk_dmem (s : State) (l : List StackItem) : (s.setStk l).dmem = s.dmem := rfl
@[simp] theorem State.setStk_iolog (s : State) (l : List StackItem) : (s.setStk l).iolog = s.iolog := rfl
@[simp] theorem State.setStk_fault (s : State) (l : List StackItem) : (s.setStk l).fault = s.fault := rfl
@[simp] theorem State.setStk_imem (s : State) (l : List StackItem) : (s.setStk l).imem = s.imem := rfl
@[simp] theorem State.setStk_cfg (s : State) (l : List StackItem) : (s.setStk l).cfg = s.cfg := rfl
@[simp] theorem State.setStk_ioReads (s : State) (l : List StackItem) : (s.setStk l).ioReads = s.ioReads := rfl
@[simp] theorem State.setStk_flagDraws (s : State) (l : List StackItem) : (s.setStk l).flagDraws = s.flagDraws := rfl

/-! ### setHalted -/

@[simp] theorem State.setHalted_regs (s : State) : (s.setHalted).regs = s.regs := rfl
@[simp] theorem State.setHalted_pc (s : State) : (s.setHalted).pc = s.pc := rfl
@[simp] theorem State.setHalted_status (s : State) : (s.setHalted).status = s.status := rfl
@[simp] theorem State.setHalted_stk (s : State) : (s.setHalted).stk = s.stk := rfl
@[simp] theorem State.setHalted_halted (s : State) : (s.setHalted).halted = true := rfl
@[simp] theorem State.setHalted_dmem (s : State) : (s.setHalted).dmem = s.dmem := rfl
@[simp] theorem State.setHalted_iolog (s : State) : (s.setHalted).iolog = s.iolog := rfl
@[simp] theorem State.setHalted_fault (s : State) : (s.setHalted).fault = s.fault := rfl
@[simp] theorem State.setHalted_imem (s : State) : (s.setHalted).imem = s.imem := rfl
@[simp] theorem State.setHalted_cfg (s : State) : (s.setHalted).cfg = s.cfg := rfl
@[simp] theorem State.setHalted_ioReads (s : State) : (s.setHalted).ioReads = s.ioReads := rfl
@[simp] theorem State.setHalted_flagDraws (s : State) : (s.setHalted).flagDraws = s.flagDraws := rfl

/-! ### setDmem -/

@[simp] theorem State.setDmem_regs (s : State) (m : Memory) : (s.setDmem m).regs = s.regs := rfl
@[simp] theorem State.setDmem_pc (s : State) (m : Memory) : (s.setDmem m).pc = s.pc := rfl
@[simp] theorem State.setDmem_status (s : State) (m : Memory) : (s.setDmem m).status = s.status := rfl
@[simp] theorem State.setDmem_stk (s : State) (m : Memory) : (s.setDmem m).stk = s.stk := rfl
@[simp] theorem State.setDmem_halted (s : State) (m : Memory) : (s.setDmem m).halted = s.halted := rfl
@[simp] theorem State.setDmem_dmem (s : State) (m : Memory) : (s.setDmem m).dmem = m := rfl
@[simp] theorem State.setDmem_iolog (s : State) (m : Memory) : (s.setDmem m).iolog = s.iolog := rfl
@[simp] theorem State.setDmem_fault (s : State) (m : Memory) : (s.setDmem m).fault = s.fault := rfl
@[simp] theorem State.setDmem_imem (s : State) (m : Memory) : (s.setDmem m).imem = s.imem := rfl
@[simp] theorem State.setDmem_cfg (s : State) (m : Memory) : (s.setDmem m).cfg = s.cfg := rfl
@[simp] theorem State.setDmem_ioReads (s : State) (m : Memory) : (s.setDmem m).ioReads = s.ioReads := rfl
@[simp] theorem State.setDmem_flagDraws (s : State) (m : Memory) : (s.setDmem m).flagDraws = s.flagDraws := rfl

/-! ### countFlagDraw -/

@[simp] theorem State.countFlagDraw_regs (s : State) : (s.countFlagDraw).regs = s.regs := rfl
@[simp] theorem State.countFlagDraw_pc (s : State) : (s.countFlagDraw).pc = s.pc := rfl
@[simp] theorem State.countFlagDraw_status (s : State) : (s.countFlagDraw).status = s.status := rfl
@[simp] theorem State.countFlagDraw_stk (s : State) : (s.countFlagDraw).stk = s.stk := rfl
@[simp] theorem State.countFlagDraw_halted (s : State) : (s.countFlagDraw).halted = s.halted := rfl
@[simp] theorem State.countFlagDraw_dmem (s : State) : (s.countFlagDraw).dmem = s.dmem := rfl
@[simp] theorem State.countFlagDraw_iolog (s : State) : (s.countFlagDraw).iolog = s.iolog := rfl
@[simp] theorem State.countFlagDraw_fault (s : State) : (s.countFlagDraw).fault = s.fault := rfl
@[simp] theorem State.countFlagDraw_imem (s : State) : (s.countFlagDraw).imem = s.imem := rfl
@[simp] theorem State.countFlagDraw_cfg (s : State) : (s.countFlagDraw).cfg = s.cfg := rfl
@[simp] theorem State.countFlagDraw_ioReads (s : State) : (s.countFlagDraw).ioReads = s.ioReads := rfl
@[simp] theorem State.countFlagDraw_flagDraws (s : State) : (s.countFlagDraw).flagDraws = s.flagDraws + 1 := rfl

/-! ### log -/

@[simp] theorem State.log_regs (s : State) (e : IoEvent) : (s.log e).regs = s.regs := rfl
@[simp] theorem State.log_pc (s : State) (e : IoEvent) : (s.log e).pc = s.pc := rfl
@[simp] theorem State.log_status (s : State) (e : IoEvent) : (s.log e).status = s.status := rfl
@[simp] theorem State.log_stk (s : State) (e : IoEvent) : (s.log e).stk = s.stk := rfl
@[simp] theorem State.log_halted (s : State) (e : IoEvent) : (s.log e).halted = s.halted := rfl
@[simp] theorem State.log_dmem (s : State) (e : IoEvent) : (s.log e).dmem = s.dmem := rfl
@[simp] theorem State.log_iolog (s : State) (e : IoEvent) : (s.log e).iolog = s.iolog ++ [e] := rfl
@[simp] theorem State.log_fault (s : State) (e : IoEvent) : (s.log e).fault = s.fault := rfl
@[simp] theorem State.log_imem (s : State) (e : IoEvent) : (s.log e).imem = s.imem := rfl
@[simp] theorem State.log_cfg (s : State) (e : IoEvent) : (s.log e).cfg = s.cfg := rfl
@[simp] theorem State.log_ioReads (s : State) (e : IoEvent) : (s.log e).ioReads = s.ioReads := rfl
@[simp] theorem State.log_flagDraws (s : State) (e : IoEvent) : (s.log e).flagDraws = s.flagDraws := rfl

/-! ### countIoRead -/

@[simp] theorem State.countIoRead_regs (s : State) : (s.countIoRead).regs = s.regs := rfl
@[simp] theorem State.countIoRead_pc (s : State) : (s.countIoRead).pc = s.pc := rfl
@[simp] theorem State.countIoRead_status (s : State) : (s.countIoRead).status = s.status := rfl
@[simp] theorem State.countIoRead_stk (s : State) : (s.countIoRead).stk = s.stk := rfl
@[simp] theorem State.countIoRead_halted (s : State) : (s.countIoRead).halted = s.halted := rfl
@[simp] theorem State.countIoRead_dmem (s : State) : (s.countIoRead).dmem = s.dmem := rfl
@[simp] theorem State.countIoRead_iolog (s : State) : (s.countIoRead).iolog = s.iolog := rfl
@[simp] theorem State.countIoRead_fault (s : State) : (s.countIoRead).fault = s.fault := rfl
@[simp] theorem State.countIoRead_imem (s : State) : (s.countIoRead).imem = s.imem := rfl
@[simp] theorem State.countIoRead_cfg (s : State) : (s.countIoRead).cfg = s.cfg := rfl
@[simp] theorem State.countIoRead_ioReads (s : State) : (s.countIoRead).ioReads = s.ioReads + 1 := rfl
@[simp] theorem State.countIoRead_flagDraws (s : State) : (s.countIoRead).flagDraws = s.flagDraws := rfl

/-! ### recordFault -/

@[simp] theorem State.recordFault_regs (s : State) (f : Fault) : (s.recordFault f).regs = s.regs := rfl
@[simp] theorem State.recordFault_pc (s : State) (f : Fault) : (s.recordFault f).pc = s.pc := rfl
@[simp] theorem State.recordFault_status (s : State) (f : Fault) : (s.recordFault f).status = s.status := rfl
@[simp] theorem State.recordFault_stk (s : State) (f : Fault) : (s.recordFault f).stk = s.stk := rfl
@[simp] theorem State.recordFault_halted (s : State) (f : Fault) : (s.recordFault f).halted = s.halted := rfl
@[simp] theorem State.recordFault_dmem (s : State) (f : Fault) : (s.recordFault f).dmem = s.dmem := rfl
@[simp] theorem State.recordFault_iolog (s : State) (f : Fault) : (s.recordFault f).iolog = s.iolog := rfl
@[simp] theorem State.recordFault_fault (s : State) (f : Fault) : (s.recordFault f).fault = some f := rfl
@[simp] theorem State.recordFault_imem (s : State) (f : Fault) : (s.recordFault f).imem = s.imem := rfl
@[simp] theorem State.recordFault_cfg (s : State) (f : Fault) : (s.recordFault f).cfg = s.cfg := rfl
@[simp] theorem State.recordFault_ioReads (s : State) (f : Fault) : (s.recordFault f).ioReads = s.ioReads := rfl
@[simp] theorem State.recordFault_flagDraws (s : State) (f : Fault) : (s.recordFault f).flagDraws = s.flagDraws := rfl

/-! ### load -/

@[simp] theorem State.load_regs (s : State) (a : Word) (words : List Word) : (s.load a words).regs = s.regs := rfl
@[simp] theorem State.load_pc (s : State) (a : Word) (words : List Word) : (s.load a words).pc = s.pc := rfl
@[simp] theorem State.load_status (s : State) (a : Word) (words : List Word) : (s.load a words).status = s.status := rfl
@[simp] theorem State.load_stk (s : State) (a : Word) (words : List Word) : (s.load a words).stk = s.stk := rfl
@[simp] theorem State.load_halted (s : State) (a : Word) (words : List Word) : (s.load a words).halted = s.halted := rfl
@[simp] theorem State.load_dmem (s : State) (a : Word) (words : List Word) : (s.load a words).dmem = s.dmem := rfl
@[simp] theorem State.load_iolog (s : State) (a : Word) (words : List Word) : (s.load a words).iolog = s.iolog := rfl
@[simp] theorem State.load_fault (s : State) (a : Word) (words : List Word) : (s.load a words).fault = s.fault := rfl
@[simp] theorem State.load_imem (s : State) (a : Word) (words : List Word) : (s.load a words).imem = IMem.placeAll s.imem a words := rfl
@[simp] theorem State.load_cfg (s : State) (a : Word) (words : List Word) : (s.load a words).cfg = s.cfg := rfl
@[simp] theorem State.load_ioReads (s : State) (a : Word) (words : List Word) : (s.load a words).ioReads = s.ioReads := rfl
@[simp] theorem State.load_flagDraws (s : State) (a : Word) (words : List Word) : (s.load a words).flagDraws = s.flagDraws := rfl

/-! ### writeReg -/

@[simp] theorem State.writeReg_regs (s : State) (r : RegNum) (v : Byte) : (s.writeReg r v).regs = s.regs.set r.toNat v r.isLt := rfl
@[simp] theorem State.writeReg_pc (s : State) (r : RegNum) (v : Byte) : (s.writeReg r v).pc = s.pc := rfl
@[simp] theorem State.writeReg_status (s : State) (r : RegNum) (v : Byte) : (s.writeReg r v).status = s.status := rfl
@[simp] theorem State.writeReg_stk (s : State) (r : RegNum) (v : Byte) : (s.writeReg r v).stk = s.stk := rfl
@[simp] theorem State.writeReg_halted (s : State) (r : RegNum) (v : Byte) : (s.writeReg r v).halted = s.halted := rfl
@[simp] theorem State.writeReg_dmem (s : State) (r : RegNum) (v : Byte) : (s.writeReg r v).dmem = s.dmem := rfl
@[simp] theorem State.writeReg_iolog (s : State) (r : RegNum) (v : Byte) : (s.writeReg r v).iolog = s.iolog := rfl
@[simp] theorem State.writeReg_fault (s : State) (r : RegNum) (v : Byte) : (s.writeReg r v).fault = s.fault := rfl
@[simp] theorem State.writeReg_imem (s : State) (r : RegNum) (v : Byte) : (s.writeReg r v).imem = s.imem := rfl
@[simp] theorem State.writeReg_cfg (s : State) (r : RegNum) (v : Byte) : (s.writeReg r v).cfg = s.cfg := rfl
@[simp] theorem State.writeReg_ioReads (s : State) (r : RegNum) (v : Byte) : (s.writeReg r v).ioReads = s.ioReads := rfl
@[simp] theorem State.writeReg_flagDraws (s : State) (r : RegNum) (v : Byte) : (s.writeReg r v).flagDraws = s.flagDraws := rfl

/-! ### advance -/

@[simp] theorem State.advance_regs (s : State) (n : Word) : (s.advance n).regs = s.regs := rfl
@[simp] theorem State.advance_pc (s : State) (n : Word) : (s.advance n).pc = s.pc + n := rfl
@[simp] theorem State.advance_status (s : State) (n : Word) : (s.advance n).status = s.status := rfl
@[simp] theorem State.advance_stk (s : State) (n : Word) : (s.advance n).stk = s.stk := rfl
@[simp] theorem State.advance_halted (s : State) (n : Word) : (s.advance n).halted = s.halted := rfl
@[simp] theorem State.advance_dmem (s : State) (n : Word) : (s.advance n).dmem = s.dmem := rfl
@[simp] theorem State.advance_iolog (s : State) (n : Word) : (s.advance n).iolog = s.iolog := rfl
@[simp] theorem State.advance_fault (s : State) (n : Word) : (s.advance n).fault = s.fault := rfl
@[simp] theorem State.advance_imem (s : State) (n : Word) : (s.advance n).imem = s.imem := rfl
@[simp] theorem State.advance_cfg (s : State) (n : Word) : (s.advance n).cfg = s.cfg := rfl
@[simp] theorem State.advance_ioReads (s : State) (n : Word) : (s.advance n).ioReads = s.ioReads := rfl
@[simp] theorem State.advance_flagDraws (s : State) (n : Word) : (s.advance n).flagDraws = s.flagDraws := rfl

/-! ### Reset -/

@[simp] theorem State.reset_regs : State.reset.regs = Vector.replicate 16 0x00 := rfl
@[simp] theorem State.reset_pc : State.reset.pc = 0x0000 := rfl
@[simp] theorem State.reset_status : State.reset.status = 0b0000 := rfl
@[simp] theorem State.reset_stk : State.reset.stk = [] := rfl
@[simp] theorem State.reset_halted : State.reset.halted = false := rfl
@[simp] theorem State.reset_dmem : State.reset.dmem = [] := rfl
@[simp] theorem State.reset_iolog : State.reset.iolog = [] := rfl
@[simp] theorem State.reset_fault : State.reset.fault = none := rfl
@[simp] theorem State.reset_imem : State.reset.imem = [] := rfl
@[simp] theorem State.reset_cfg : State.reset.cfg = Config.default := rfl
@[simp] theorem State.reset_ioReads : State.reset.ioReads = 0 := rfl
@[simp] theorem State.reset_flagDraws : State.reset.flagDraws = 0 := rfl

end Sys2Proof.Machine
end

