-- ==== Sys2Proof/Laws/Registers.lean ====
section
/-! SUPPORT. Registers and pairs: what a write changes and what it leaves (10_state.md R20, R23, R24). -/

namespace Sys2Proof.Machine

/-! ### One register -/

@[simp] theorem readReg_writeReg_same (s : State) (r : RegNum) (v : Byte) :
    (s.writeReg r v).readReg r = v := by
  simp [State.readReg, State.writeReg]

theorem readReg_writeReg_other (s : State) {q r : RegNum} (v : Byte) (h : q ≠ r) :
    (s.writeReg r v).readReg q = s.readReg q := by
  have hn : r.toNat ≠ q.toNat := fun e => h (BitVec.eq_of_toNat_eq e.symm)
  simp [State.readReg, State.writeReg, hn]

theorem readReg_writeReg (s : State) (q r : RegNum) (v : Byte) :
    (s.writeReg r v).readReg q = if q = r then v else s.readReg q := by
  by_cases h : q = r
  · subst h; simp
  · simp [h, readReg_writeReg_other]

/-- Reading registers depends on the register file alone. -/
theorem readReg_congr {s t : State} (h : t.regs = s.regs) (r : RegNum) : t.readReg r = s.readReg r := by
  simp [State.readReg, h]

@[simp] theorem readReg_setPc (s : State) (v : Word) (r : RegNum) : (s.setPc v).readReg r = s.readReg r := rfl
@[simp] theorem readReg_setStatus (s : State) (v : Status) (r : RegNum) : (s.setStatus v).readReg r = s.readReg r := rfl
@[simp] theorem readReg_setStk (s : State) (l : List StackItem) (r : RegNum) : (s.setStk l).readReg r = s.readReg r := rfl
@[simp] theorem readReg_setHalted (s : State) (r : RegNum) : s.setHalted.readReg r = s.readReg r := rfl
@[simp] theorem readReg_setDmem (s : State) (m : Memory) (r : RegNum) : (s.setDmem m).readReg r = s.readReg r := rfl
@[simp] theorem readReg_countFlagDraw (s : State) (r : RegNum) : s.countFlagDraw.readReg r = s.readReg r := rfl
@[simp] theorem readReg_log (s : State) (e : IoEvent) (r : RegNum) : (s.log e).readReg r = s.readReg r := rfl
@[simp] theorem readReg_countIoRead (s : State) (r : RegNum) : s.countIoRead.readReg r = s.readReg r := rfl
@[simp] theorem readReg_recordFault (s : State) (f : Fault) (r : RegNum) : (s.recordFault f).readReg r = s.readReg r := rfl
@[simp] theorem readReg_advance (s : State) (n : Word) (r : RegNum) : (s.advance n).readReg r = s.readReg r := rfl

/-! ### Pairs -/

theorem oddReg_ne_evenReg : ∀ p q : PairNum, oddReg p ≠ evenReg q := by decide

@[simp] theorem highReg_ne_lowReg (cfg : Config) (p q : PairNum) : highReg cfg p ≠ lowReg cfg q := by
  unfold highReg lowReg
  cases cfg.pairHigh
  · exact oddReg_ne_evenReg p q
  · exact fun h => oddReg_ne_evenReg q p h.symm

/-- A register is in a pair exactly when it is its high or its low register. -/
theorem inPair_iff (cfg : Config) (r : RegNum) (p : PairNum) :
    inPair r p = true ↔ r = highReg cfg p ∨ r = lowReg cfg p := by
  unfold highReg lowReg inPair
  cases cfg.pairHigh <;> simp [or_comm]

@[simp] theorem highReg_inPair (cfg : Config) (p : PairNum) : inPair (highReg cfg p) p = true :=
  (inPair_iff cfg _ p).2 (.inl rfl)

@[simp] theorem lowReg_inPair (cfg : Config) (p : PairNum) : inPair (lowReg cfg p) p = true :=
  (inPair_iff cfg _ p).2 (.inr rfl)

@[simp] theorem writePair_pc (s : State) (p : PairNum) (v : Word) : (s.writePair p v).pc = s.pc := rfl
@[simp] theorem writePair_status (s : State) (p : PairNum) (v : Word) : (s.writePair p v).status = s.status := rfl
@[simp] theorem writePair_stk (s : State) (p : PairNum) (v : Word) : (s.writePair p v).stk = s.stk := rfl
@[simp] theorem writePair_halted (s : State) (p : PairNum) (v : Word) : (s.writePair p v).halted = s.halted := rfl
@[simp] theorem writePair_dmem (s : State) (p : PairNum) (v : Word) : (s.writePair p v).dmem = s.dmem := rfl
@[simp] theorem writePair_iolog (s : State) (p : PairNum) (v : Word) : (s.writePair p v).iolog = s.iolog := rfl
@[simp] theorem writePair_fault (s : State) (p : PairNum) (v : Word) : (s.writePair p v).fault = s.fault := rfl
@[simp] theorem writePair_imem (s : State) (p : PairNum) (v : Word) : (s.writePair p v).imem = s.imem := rfl
@[simp] theorem writePair_cfg (s : State) (p : PairNum) (v : Word) : (s.writePair p v).cfg = s.cfg := rfl
@[simp] theorem writePair_ioReads (s : State) (p : PairNum) (v : Word) : (s.writePair p v).ioReads = s.ioReads := rfl
@[simp] theorem writePair_flagDraws (s : State) (p : PairNum) (v : Word) : (s.writePair p v).flagDraws = s.flagDraws := rfl

@[simp] theorem readReg_writePair_high (s : State) (p : PairNum) (v : Word) :
    (s.writePair p v).readReg (highReg s.cfg p) = v.extractLsb' 8 8 := by
  simp [State.writePair, readReg_writeReg_other]

@[simp] theorem readReg_writePair_low (s : State) (p : PairNum) (v : Word) :
    (s.writePair p v).readReg (lowReg s.cfg p) = v.extractLsb' 0 8 := by
  simp [State.writePair]

/-- Writing a pair leaves the registers of the other pairs. -/
theorem readReg_writePair_other (s : State) (p : PairNum) (v : Word) {r : RegNum} (h : inPair r p = false) :
    (s.writePair p v).readReg r = s.readReg r := by
  have hh : r ≠ highReg s.cfg p := by rintro rfl; simp at h
  have hl : r ≠ lowReg s.cfg p := by rintro rfl; simp at h
  simp [State.writePair, readReg_writeReg_other, hh, hl]

theorem extract_append_bytes (v : Word) : v.extractLsb' 8 8 ++ v.extractLsb' 0 8 = v := by
  ext j hj
  simp only [BitVec.getElem_append, BitVec.getElem_extractLsb']
  split
  · simp [BitVec.getLsbD_eq_getElem hj]
  · rw [show 8 + (j - 8) = j by omega, BitVec.getLsbD_eq_getElem hj]

/-- A pair reads as what was written to it. -/
@[simp] theorem readPair_writePair_same (s : State) (p : PairNum) (v : Word) :
    (s.writePair p v).readPair p = v := by
  have hh : (s.writePair p v).readReg (highReg (s.writePair p v).cfg p) = v.extractLsb' 8 8 := readReg_writePair_high s p v
  have hl : (s.writePair p v).readReg (lowReg (s.writePair p v).cfg p) = v.extractLsb' 0 8 := readReg_writePair_low s p v
  rw [State.readPair, hh, hl, extract_append_bytes]

/-- The high byte of a pair is its high register (10_state.md R24). -/
theorem readPair_high (s : State) (p : PairNum) : (s.readPair p).extractLsb' 8 8 = s.readReg (highReg s.cfg p) := by
  ext j hj
  simp only [State.readPair, BitVec.getElem_extractLsb', BitVec.getLsbD_append]
  rw [if_neg (by omega)]
  simp [BitVec.getLsbD_eq_getElem hj]

/-- The low byte of a pair is its low register (10_state.md R24). -/
theorem readPair_low (s : State) (p : PairNum) : (s.readPair p).extractLsb' 0 8 = s.readReg (lowReg s.cfg p) := by
  ext j hj
  simp only [State.readPair, BitVec.getElem_extractLsb', BitVec.getLsbD_append]
  rw [if_pos (by omega)]
  simp [BitVec.getLsbD_eq_getElem hj]

/-- A pair as a number (10_state.md R24). -/
theorem readPair_toNat (s : State) (p : PairNum) :
    (s.readPair p).toNat = 256 * (s.readReg (highReg s.cfg p)).toNat + (s.readReg (lowReg s.cfg p)).toNat := by
  have h := (s.readReg (lowReg s.cfg p)).isLt
  simp only [State.readPair, BitVec.toNat_append]
  rw [Nat.shiftLeft_eq, Nat.mul_comm, ← Nat.two_pow_add_eq_or_of_lt h]

/-- Reading pairs depends on the register file and on PAIR_HIGH. -/
theorem readPair_congr {s t : State} (hr : t.regs = s.regs) (hc : t.cfg = s.cfg) (p : PairNum) :
    t.readPair p = s.readPair p := by
  simp [State.readPair, State.readReg, hr, hc]

@[simp] theorem readPair_setPc (s : State) (v : Word) (p : PairNum) : (s.setPc v).readPair p = s.readPair p := rfl
@[simp] theorem readPair_setDmem (s : State) (m : Memory) (p : PairNum) : (s.setDmem m).readPair p = s.readPair p := rfl
@[simp] theorem readPair_advance (s : State) (n : Word) (p : PairNum) : (s.advance n).readPair p = s.readPair p := rfl

end Sys2Proof.Machine
end

