-- ==== Sys2Proof/Laws/Flags.lean ====
section
/-! SUPPORT. Flags: the adder as arithmetic (00_scope.md R15), the bits of `s` (10_state.md R30), and what the flag writes of 10_state.md R29 change and leave. -/

namespace Sys2Proof.Machine

/-! ### The adder -/

theorem add9_toNat (a b : Byte) (cin : Bool) : (add9 a b cin).toNat = a.toNat + b.toNat + cin.toNat := by
  have ha := a.isLt
  have hb := b.isLt
  cases cin <;> simp [add9] <;> omega

/-- The low byte of the adder is the sum modulo 2^8. -/
theorem sumByte_add9 (a b : Byte) (cin : Bool) :
    sumByte (add9 a b cin) = BitVec.ofNat 8 (a.toNat + b.toNat + cin.toNat) := by
  apply BitVec.eq_of_toNat_eq
  simp [sumByte, add9_toNat]

/-- The carry out is 1 exactly when the sum does not fit a byte. -/
theorem carryOut_add9 (a b : Byte) (cin : Bool) :
    carryOut (add9 a b cin) = decide (256 ≤ a.toNat + b.toNat + cin.toNat) := by
  have ha := a.isLt
  have hb := b.isLt
  have hc : cin.toNat ≤ 1 := by cases cin <;> simp
  rw [carryOut, BitVec.getLsbD, add9_toNat, Nat.testBit_eq_decide_div_mod_eq]
  congr 1
  apply propext
  constructor <;> intro h <;> omega

/-! ### The bits of the status register -/

theorem getLsbD_putBit : ∀ (v : Status) (j k : Fin 4) (b : Bool),
    (putBit v j b).getLsbD k = if k = j then b else v.getLsbD k := by decide

@[simp] theorem flag_putFlag_same (s : State) (f : Flag) (b : Bool) : (s.putFlag f b).flag f = b := by
  simp only [State.flag, State.putFlag, State.setStatus_status, State.setStatus_cfg, getLsbD_putBit, if_true]

theorem flag_putFlag_other (s : State) {f g : Flag} (b : Bool) (h : s.cfg.flagBit g ≠ s.cfg.flagBit f) :
    (s.putFlag f b).flag g = s.flag g := by
  simp only [State.flag, State.putFlag, State.setStatus_status, State.setStatus_cfg, getLsbD_putBit, if_neg h]

/-- The bits that hold another flag, or none, are kept. -/
theorem status_putFlag_other (s : State) {f : Flag} (b : Bool) {j : Fin 4} (h : s.cfg.flagBit f ≠ j) :
    (s.putFlag f b).status.getLsbD j = s.status.getLsbD j := by
  simp only [State.putFlag, State.setStatus_status, getLsbD_putBit, if_neg (Ne.symm h)]

/-- Reading a flag depends on `s` and the layout alone. -/
theorem flag_congr {s t : State} (hs : t.status = s.status) (hc : t.cfg = s.cfg) (f : Flag) : t.flag f = s.flag f := by
  simp [State.flag, hs, hc]

@[simp] theorem flag_setPc (s : State) (v : Word) (f : Flag) : (s.setPc v).flag f = s.flag f := rfl
@[simp] theorem flag_setStk (s : State) (l : List StackItem) (f : Flag) : (s.setStk l).flag f = s.flag f := rfl
@[simp] theorem flag_setDmem (s : State) (m : Memory) (f : Flag) : (s.setDmem m).flag f = s.flag f := rfl
@[simp] theorem flag_writeReg (s : State) (r : RegNum) (v : Byte) (f : Flag) : (s.writeReg r v).flag f = s.flag f := rfl
@[simp] theorem flag_advance (s : State) (n : Word) (f : Flag) : (s.advance n).flag f = s.flag f := rfl

/-! ### Fields that a flag write leaves -/

@[simp] theorem putFlag_regs (s : State) (f : Flag) (b : Bool) : (s.putFlag f b).regs = s.regs := rfl
@[simp] theorem putFlag_pc (s : State) (f : Flag) (b : Bool) : (s.putFlag f b).pc = s.pc := rfl
@[simp] theorem putFlag_stk (s : State) (f : Flag) (b : Bool) : (s.putFlag f b).stk = s.stk := rfl
@[simp] theorem putFlag_halted (s : State) (f : Flag) (b : Bool) : (s.putFlag f b).halted = s.halted := rfl
@[simp] theorem putFlag_dmem (s : State) (f : Flag) (b : Bool) : (s.putFlag f b).dmem = s.dmem := rfl
@[simp] theorem putFlag_iolog (s : State) (f : Flag) (b : Bool) : (s.putFlag f b).iolog = s.iolog := rfl
@[simp] theorem putFlag_fault (s : State) (f : Flag) (b : Bool) : (s.putFlag f b).fault = s.fault := rfl
@[simp] theorem putFlag_imem (s : State) (f : Flag) (b : Bool) : (s.putFlag f b).imem = s.imem := rfl
@[simp] theorem putFlag_cfg (s : State) (f : Flag) (b : Bool) : (s.putFlag f b).cfg = s.cfg := rfl
@[simp] theorem putFlag_ioReads (s : State) (f : Flag) (b : Bool) : (s.putFlag f b).ioReads = s.ioReads := rfl
@[simp] theorem putFlag_flagDraws (s : State) (f : Flag) (b : Bool) : (s.putFlag f b).flagDraws = s.flagDraws := rfl

@[simp] theorem putFlag?_regs (s : State) (f : Flag) (b : Option Bool) : (s.putFlag? f b).regs = s.regs := by cases b <;> rfl
@[simp] theorem putFlag?_pc (s : State) (f : Flag) (b : Option Bool) : (s.putFlag? f b).pc = s.pc := by cases b <;> rfl
@[simp] theorem putFlag?_stk (s : State) (f : Flag) (b : Option Bool) : (s.putFlag? f b).stk = s.stk := by cases b <;> rfl
@[simp] theorem putFlag?_halted (s : State) (f : Flag) (b : Option Bool) : (s.putFlag? f b).halted = s.halted := by cases b <;> rfl
@[simp] theorem putFlag?_dmem (s : State) (f : Flag) (b : Option Bool) : (s.putFlag? f b).dmem = s.dmem := by cases b <;> rfl
@[simp] theorem putFlag?_iolog (s : State) (f : Flag) (b : Option Bool) : (s.putFlag? f b).iolog = s.iolog := by cases b <;> rfl
@[simp] theorem putFlag?_fault (s : State) (f : Flag) (b : Option Bool) : (s.putFlag? f b).fault = s.fault := by cases b <;> rfl
@[simp] theorem putFlag?_imem (s : State) (f : Flag) (b : Option Bool) : (s.putFlag? f b).imem = s.imem := by cases b <;> rfl
@[simp] theorem putFlag?_cfg (s : State) (f : Flag) (b : Option Bool) : (s.putFlag? f b).cfg = s.cfg := by cases b <;> rfl
@[simp] theorem putFlag?_ioReads (s : State) (f : Flag) (b : Option Bool) : (s.putFlag? f b).ioReads = s.ioReads := by cases b <;> rfl
@[simp] theorem putFlag?_flagDraws (s : State) (f : Flag) (b : Option Bool) : (s.putFlag? f b).flagDraws = s.flagDraws := by cases b <;> rfl

@[simp] theorem writeFlags_regs (s : State) (row : FlagRow) : (s.writeFlags row).regs = s.regs := by
  unfold State.writeFlags; split <;> simp [State.conventionalFlags, State.havocFlags]
@[simp] theorem writeFlags_pc (s : State) (row : FlagRow) : (s.writeFlags row).pc = s.pc := by
  unfold State.writeFlags; split <;> simp [State.conventionalFlags, State.havocFlags]
@[simp] theorem writeFlags_stk (s : State) (row : FlagRow) : (s.writeFlags row).stk = s.stk := by
  unfold State.writeFlags; split <;> simp [State.conventionalFlags, State.havocFlags]
@[simp] theorem writeFlags_halted (s : State) (row : FlagRow) : (s.writeFlags row).halted = s.halted := by
  unfold State.writeFlags; split <;> simp [State.conventionalFlags, State.havocFlags]
@[simp] theorem writeFlags_dmem (s : State) (row : FlagRow) : (s.writeFlags row).dmem = s.dmem := by
  unfold State.writeFlags; split <;> simp [State.conventionalFlags, State.havocFlags]
@[simp] theorem writeFlags_iolog (s : State) (row : FlagRow) : (s.writeFlags row).iolog = s.iolog := by
  unfold State.writeFlags; split <;> simp [State.conventionalFlags, State.havocFlags]
@[simp] theorem writeFlags_fault (s : State) (row : FlagRow) : (s.writeFlags row).fault = s.fault := by
  unfold State.writeFlags; split <;> simp [State.conventionalFlags, State.havocFlags]
@[simp] theorem writeFlags_imem (s : State) (row : FlagRow) : (s.writeFlags row).imem = s.imem := by
  unfold State.writeFlags; split <;> simp [State.conventionalFlags, State.havocFlags]
@[simp] theorem writeFlags_cfg (s : State) (row : FlagRow) : (s.writeFlags row).cfg = s.cfg := by
  unfold State.writeFlags; split <;> simp [State.conventionalFlags, State.havocFlags]
@[simp] theorem writeFlags_ioReads (s : State) (row : FlagRow) : (s.writeFlags row).ioReads = s.ioReads := by
  unfold State.writeFlags; split <;> simp [State.conventionalFlags, State.havocFlags]

@[simp] theorem readReg_writeFlags (s : State) (row : FlagRow) (r : RegNum) : (s.writeFlags row).readReg r = s.readReg r :=
  readReg_congr (writeFlags_regs s row) r

@[simp] theorem readPair_writeFlags (s : State) (row : FlagRow) (p : PairNum) : (s.writeFlags row).readPair p = s.readPair p :=
  readPair_congr (writeFlags_regs s row) (writeFlags_cfg s row) p

/-! ### What a flag write does -/

theorem flag_putFlag?_same (s : State) (f : Flag) (b : Option Bool) : (s.putFlag? f b).flag f = b.getD (s.flag f) := by
  cases b
  · rfl
  · exact flag_putFlag_same s f _

theorem flag_putFlag?_other (s : State) {f g : Flag} (b : Option Bool) (h : s.cfg.flagBit g ≠ s.cfg.flagBit f) :
    (s.putFlag? f b).flag g = s.flag g := by
  cases b
  · rfl
  · exact flag_putFlag_other s _ h

theorem status_putFlag?_other (s : State) {f : Flag} (b : Option Bool) {j : Fin 4} (h : s.cfg.flagBit f ≠ j) :
    (s.putFlag? f b).status.getLsbD j = s.status.getLsbD j := by
  cases b
  · rfl
  · exact status_putFlag_other s _ h

/-- In a layout with distinct bits, different flags have different bits (00_scope.md R8). -/
theorem flagBit_ne {cfg : Config} (h : cfg.flagBitsDistinct = true) {f g : Flag} (hfg : f ≠ g) : cfg.flagBit f ≠ cfg.flagBit g := by
  simp only [Config.flagBitsDistinct, Bool.and_eq_true, bne_iff_ne, ne_eq] at h
  cases f <;> cases g <;> simp only [Config.flagBit, ne_eq] <;> first
    | exact absurd rfl hfg
    | exact h.1.1
    | exact h.1.2
    | exact h.2
    | exact fun e => h.1.1 e.symm
    | exact fun e => h.1.2 e.symm
    | exact fun e => h.2 e.symm

/-- The flags after a row under FLAG_MODEL = conventional: the row's values, and the old ones where it says unchanged (R29). -/
theorem conventionalFlags_flag (s : State) (row : FlagRow) (h : s.cfg.flagBitsDistinct = true) :
    (s.conventionalFlags row).flag .c = row.c.getD (s.flag .c) ∧
    (s.conventionalFlags row).flag .z = row.z.getD (s.flag .z) ∧
    (s.conventionalFlags row).flag .n = row.n.getD (s.flag .n) := by
  have hcz : s.cfg.flagBit .c ≠ s.cfg.flagBit .z := flagBit_ne h (by decide)
  have hcn : s.cfg.flagBit .c ≠ s.cfg.flagBit .n := flagBit_ne h (by decide)
  have hzn : s.cfg.flagBit .z ≠ s.cfg.flagBit .n := flagBit_ne h (by decide)
  unfold State.conventionalFlags
  refine ⟨?_, ?_, ?_⟩
  · rw [flag_putFlag?_other _ _ (by simpa using hcn), flag_putFlag?_other _ _ (by simpa using hcz), flag_putFlag?_same]
  · rw [flag_putFlag?_other _ _ (by simpa using hzn), flag_putFlag?_same, flag_putFlag?_other _ _ (by simpa using hcz.symm)]
  · rw [flag_putFlag?_same, flag_putFlag?_other _ _ (by simpa using hzn.symm), flag_putFlag?_other _ _ (by simpa using hcn.symm)]

theorem writeFlags_conventional {s : State} (h : s.cfg.flagModel = .conventional) (row : FlagRow) :
    s.writeFlags row = s.conventionalFlags row := by
  simp only [State.writeFlags, h]

theorem writeFlags_havoc {s : State} (h : s.cfg.flagModel = .havoc) (row : FlagRow) :
    s.writeFlags row = s.havocFlags row := by
  simp only [State.writeFlags, h]

/-- A flag row changes no bit of `s` outside the bits of the three flags. -/
theorem writeFlags_status_unnamed (s : State) (row : FlagRow) {j : Fin 4} (h : ∀ f, s.cfg.flagBit f ≠ j) :
    (s.writeFlags row).status.getLsbD j = s.status.getLsbD j := by
  unfold State.writeFlags
  split
  · unfold State.conventionalFlags
    rw [status_putFlag?_other _ _ (by simpa using h .n), status_putFlag?_other _ _ (by simpa using h .z),
      status_putFlag?_other _ _ (h .c)]
  · unfold State.havocFlags
    rw [State.countFlagDraw_status, status_putFlag?_other _ _ (by simpa using h .n),
      status_putFlag?_other _ _ (by simpa using h .z), status_putFlag?_other _ _ (h .c)]

/-- Under FLAG_MODEL = conventional a row changes no bit of `s` but those of the flags it gives a value. -/
theorem conventionalFlags_status (s : State) (row : FlagRow) {j : Fin 4}
    (hc : row.c ≠ none → s.cfg.flagBit .c ≠ j) (hz : row.z ≠ none → s.cfg.flagBit .z ≠ j)
    (hn : row.n ≠ none → s.cfg.flagBit .n ≠ j) :
    (s.conventionalFlags row).status.getLsbD j = s.status.getLsbD j := by
  have put : ∀ (u : State) (f : Flag) (b : Option Bool), u.cfg = s.cfg → (b ≠ none → s.cfg.flagBit f ≠ j) →
      (u.putFlag? f b).status.getLsbD j = u.status.getLsbD j := by
    intro u f b hu hb
    cases b with
    | none => rfl
    | some b => exact status_putFlag_other u b (by rw [hu]; exact hb (by simp))
  unfold State.conventionalFlags
  rw [put _ .n _ (by simp) hn, put _ .z _ (by simp) hz, put _ .c _ rfl hc]

/-- The C that the source states (RLC, RRC) is the row's under both values of FLAG_MODEL (R29, 45 R180). -/
theorem writeFlags_statedCarry {s : State} {row : FlagRow} (hd : s.cfg.flagBitsDistinct = true) (hst : row.cStated = true) :
    (s.writeFlags row).flag .c = row.c.getD (s.flag .c) := by
  have hcz : s.cfg.flagBit .c ≠ s.cfg.flagBit .z := flagBit_ne hd (by decide)
  have hcn : s.cfg.flagBit .c ≠ s.cfg.flagBit .n := flagBit_ne hd (by decide)
  unfold State.writeFlags
  split
  · exact (conventionalFlags_flag s row hd).1
  · simp only [State.havocFlags, hst, if_true]
    rw [flag_congr (State.countFlagDraw_status _) (State.countFlagDraw_cfg _),
      flag_putFlag?_other _ _ (by simpa using hcn), flag_putFlag?_other _ _ (by simpa using hcz), flag_putFlag?_same]

/-- Under FLAG_MODEL = conventional no draw is made; under havoc one is. -/
theorem writeFlags_flagDraws (s : State) (row : FlagRow) :
    (s.writeFlags row).flagDraws = s.flagDraws + s.cfg.flagModel.draws := by
  unfold State.writeFlags
  split <;> simp [State.conventionalFlags, State.havocFlags, FlagModel.draws, *]

end Sys2Proof.Machine
end

