-- ==== Sys2Proof/Laws/Memory.lean ====
section
/-! SUPPORT. The two memories: a read after a write, and the canonical form, which every operation keeps. -/

namespace Sys2Proof.Machine

/-! ### The data space -/

/-- The canonical form from a higher bound is one from a lower bound. -/
theorem Memory.wfFrom_mono : ∀ {lo lo' : Nat} {m : Memory}, lo' ≤ lo → Memory.wfFrom lo m = true → Memory.wfFrom lo' m = true
  | _, _, [], _, _ => rfl
  | lo, lo', (k, v) :: rest, hle, h => by
    simp only [Memory.wfFrom, Bool.and_eq_true, decide_eq_true_eq] at h ⊢
    exact ⟨⟨⟨by omega, h.1.1.2⟩, h.1.2⟩, h.2⟩

/-- Below the first listed address every address reads as unlisted. -/
theorem Memory.read_below : ∀ {lo : Nat} {m : Memory} {a : Nat}, Memory.wfFrom lo m = true → a < lo →
    Memory.read m a = Memory.unlisted
  | _, [], _, _, _ => rfl
  | lo, (k, v) :: rest, a, h, ha => by
    simp only [Memory.wfFrom, Bool.and_eq_true, decide_eq_true_eq] at h
    rw [Memory.read, if_neg (by omega)]
    exact Memory.read_below h.2 (by omega)

theorem Memory.read_cons {lo a : Nat} {v : Byte} {rest : Memory} (h : Memory.wfFrom lo rest = true) (ha : a < lo) (b : Nat) :
    Memory.read (Memory.cons a v rest) b = if b = a then v else Memory.read rest b := by
  unfold Memory.cons
  split
  · rename_i hv
    split
    · rename_i hb; rw [hb, hv, Memory.read_below h ha]
    · rfl
  · simp only [Memory.read, eq_comm]

theorem Memory.wfFrom_cons {lo a : Nat} {v : Byte} {rest : Memory} (hlo : lo ≤ a) (h16 : a < 2 ^ 16)
    (h : Memory.wfFrom (a + 1) rest = true) : Memory.wfFrom lo (Memory.cons a v rest) = true := by
  unfold Memory.cons
  split
  · exact Memory.wfFrom_mono (by omega) h
  · rename_i hv
    simp only [Memory.wfFrom, Bool.and_eq_true, decide_eq_true_eq, bne_iff_ne, ne_eq]
    exact ⟨⟨⟨hlo, h16⟩, hv⟩, h⟩

/-- A write gives the byte written at its address and leaves every other address. -/
theorem Memory.read_write : ∀ {lo : Nat} {m : Memory} (a : Nat) (v : Byte) (b : Nat), Memory.wfFrom lo m = true → 
    Memory.read (Memory.write m a v) b = if b = a then v else Memory.read m b
  | _, [], a, v, b, _ => Memory.read_cons (lo := a + 1) (rest := []) rfl (by omega) b
  | lo, (k, x) :: rest, a, v, b, h => by
    have hw := h
    simp only [Memory.wfFrom, Bool.and_eq_true, decide_eq_true_eq] at hw
    unfold Memory.write
    split
    · rename_i hlt
      refine Memory.read_cons (lo := k) ?_ hlt b
      simp only [Memory.wfFrom, Bool.and_eq_true, decide_eq_true_eq]
      exact ⟨⟨⟨le_refl k, hw.1.1.2⟩, hw.1.2⟩, hw.2⟩
    · split
      · rename_i heq
        subst heq
        rw [Memory.read_cons (lo := a + 1) hw.2 (by omega) b]
        by_cases hb : b = a
        · simp [hb]
        · simp [Memory.read, hb, Ne.symm hb]
      · rename_i hne
        rw [Memory.read, Memory.read, Memory.read_write a v b hw.2]
        by_cases hb : b = a
        · have : ¬ k = a := fun e => hne e.symm
          simp [hb, this]
        · simp [hb]

/-- A write keeps the canonical form. -/
theorem Memory.wfFrom_write : ∀ {lo : Nat} {m : Memory} {a : Nat} (v : Byte), Memory.wfFrom lo m = true → lo ≤ a → a < 2 ^ 16 →
    Memory.wfFrom lo (Memory.write m a v) = true
  | _, [], _, _, _, hlo, h16 => Memory.wfFrom_cons hlo h16 rfl
  | lo, (k, x) :: rest, a, v, h, hlo, h16 => by
    have hw := h
    simp only [Memory.wfFrom, Bool.and_eq_true, decide_eq_true_eq] at hw
    unfold Memory.write
    split
    · refine Memory.wfFrom_cons hlo h16 ?_
      simp only [Memory.wfFrom, Bool.and_eq_true, decide_eq_true_eq]
      exact ⟨⟨⟨by omega, hw.1.1.2⟩, hw.1.2⟩, hw.2⟩
    · split
      · rename_i heq
        subst heq
        exact Memory.wfFrom_cons hlo h16 hw.2
      · simp only [Memory.wfFrom, Bool.and_eq_true, decide_eq_true_eq]
        exact ⟨⟨⟨hw.1.1.1, hw.1.1.2⟩, hw.1.2⟩, Memory.wfFrom_write v hw.2 (by omega) h16⟩

theorem Memory.wf_nil : Memory.wf [] = true := rfl

theorem Memory.wf_write {m : Memory} (a : Word) (v : Byte) (h : Memory.wf m = true) :
    Memory.wf (Memory.write m a.toNat v) = true :=
  Memory.wfFrom_write v h (Nat.zero_le _) a.isLt

/-- Two memories in canonical form that read alike are equal data. -/
theorem Memory.ext_wf : ∀ {lo : Nat} {m m' : Memory}, Memory.wfFrom lo m = true → Memory.wfFrom lo m' = true →
    (∀ a, Memory.read m a = Memory.read m' a) → m = m'
  | _, [], [], _, _, _ => rfl
  | lo, [], (k, v) :: rest, _, h', hr => by
    simp only [Memory.wfFrom, Bool.and_eq_true, decide_eq_true_eq, bne_iff_ne, ne_eq] at h'
    have := hr k
    simp only [Memory.read, if_true] at this
    exact absurd this.symm h'.1.2
  | lo, (k, v) :: rest, [], h, _, hr => by
    simp only [Memory.wfFrom, Bool.and_eq_true, decide_eq_true_eq, bne_iff_ne, ne_eq] at h
    have := hr k
    simp only [Memory.read, if_true] at this
    exact absurd this h.1.2
  | lo, (k, v) :: rest, (k', v') :: rest', h, h', hr => by
    simp only [Memory.wfFrom, Bool.and_eq_true, decide_eq_true_eq, bne_iff_ne, ne_eq] at h h'
    have hk : k = k' := by
      rcases Nat.lt_trichotomy k k' with hlt | heq | hgt
      · have := hr k
        rw [Memory.read, if_pos rfl, Memory.read, if_neg (by omega), Memory.read_below h'.2 (by omega)] at this
        exact absurd this h.1.2
      · exact heq
      · have := hr k'
        rw [Memory.read, if_neg (by omega), Memory.read_below h.2 (by omega), Memory.read, if_pos rfl] at this
        exact absurd this.symm h'.1.2
    subst hk
    have hv : v = v' := by simpa [Memory.read] using hr k
    subst hv
    have hrest : rest = rest' := by
      refine Memory.ext_wf h.2 h'.2 fun a => ?_
      have := hr a
      by_cases ha : k = a
      · subst ha
        rw [Memory.read_below h.2 (by omega), Memory.read_below h'.2 (by omega)]
      · simpa [Memory.read, ha] using this
    rw [hrest]

/-! ### The instruction space -/

theorem IMem.wfFrom_mono : ∀ {lo lo' : Nat} {m : IMem}, lo' ≤ lo → IMem.wfFrom lo m = true → IMem.wfFrom lo' m = true
  | _, _, [], _, _ => rfl
  | lo, lo', (k, v) :: rest, hle, h => by
    simp only [IMem.wfFrom, Bool.and_eq_true, decide_eq_true_eq] at h ⊢
    exact ⟨⟨by omega, h.1.2⟩, h.2⟩

/-- Placing a word maps it at its address and leaves every other address. -/
theorem IMem.read_place : ∀ (m : IMem) (a : Nat) (w : Word) (b : Nat),
    IMem.read (IMem.place m a w) b = if b = a then some w else IMem.read m b
  | [], a, w, b => by simp only [IMem.place, IMem.read, eq_comm]
  | (k, x) :: rest, a, w, b => by
    unfold IMem.place
    split
    · simp only [IMem.read, eq_comm]
    · split
      · rename_i heq
        subst heq
        by_cases hb : b = a
        · simp [IMem.read, hb]
        · simp [IMem.read, hb, Ne.symm hb]
      · rename_i hne
        rw [IMem.read, IMem.read, IMem.read_place rest a w b]
        by_cases hb : b = a
        · have : ¬ k = a := fun e => hne e.symm
          simp [hb, this]
        · simp [hb]

/-- Placing a word keeps the canonical form. -/
theorem IMem.wfFrom_place : ∀ {lo : Nat} {m : IMem} {a : Nat} (w : Word), IMem.wfFrom lo m = true → lo ≤ a → a < 2 ^ 16 →
    IMem.wfFrom lo (IMem.place m a w) = true
  | _, [], a, _, _, hlo, h16 => by
    simp only [IMem.place, IMem.wfFrom, Bool.and_eq_true, decide_eq_true_eq]
    exact ⟨⟨hlo, h16⟩, trivial⟩
  | lo, (k, x) :: rest, a, w, h, hlo, h16 => by
    have hw := h
    simp only [IMem.wfFrom, Bool.and_eq_true, decide_eq_true_eq] at hw
    unfold IMem.place
    split
    · simp only [IMem.wfFrom, Bool.and_eq_true, decide_eq_true_eq]
      exact ⟨⟨hlo, h16⟩, ⟨⟨by omega, hw.1.2⟩, hw.2⟩⟩
    · split
      · rename_i heq
        subst heq
        simp only [IMem.wfFrom, Bool.and_eq_true, decide_eq_true_eq]
        exact ⟨⟨hlo, h16⟩, hw.2⟩
      · simp only [IMem.wfFrom, Bool.and_eq_true, decide_eq_true_eq]
        exact ⟨⟨hw.1.1, hw.1.2⟩, IMem.wfFrom_place w hw.2 (by omega) h16⟩

theorem IMem.wf_place {m : IMem} (a : Word) (w : Word) (h : IMem.wf m = true) : IMem.wf (IMem.place m a.toNat w) = true :=
  IMem.wfFrom_place w h (Nat.zero_le _) a.isLt

theorem IMem.wf_placeAll : ∀ {m : IMem} (a : Word) (words : List Word), IMem.wf m = true →
    IMem.wf (IMem.placeAll m a words) = true
  | _, _, [], h => h
  | _, a, w :: rest, h => IMem.wf_placeAll (a + 1) rest (IMem.wf_place a w h)

/-! ### The accesses of a state -/

/-- Reading a data byte depends on the data space alone. -/
theorem dataByte_congr {s t : State} (h : t.dmem = s.dmem) (a : Word) : t.dataByte a = s.dataByte a := by
  simp [State.dataByte, h]

/-- What MemRead can do (20_memory.md R52). -/
theorem memRead_ok_iff {s : State} {a : Word} {v : Byte} :
    s.memRead a = .ok v ↔ dataMapped s.cfg a = true ∧ v = s.dataByte a := by
  unfold State.memRead
  split
  · rename_i h; simp [h, eq_comm]
  · rename_i h; simp [h]

/-- What MemWrite can do (20_memory.md R53). -/
theorem memWrite_ok_iff {s t : State} {a : Word} {v : Byte} :
    s.memWrite a v = .ok t ↔ dataMapped s.cfg a = true ∧ t = s.setDmem (Memory.write s.dmem a.toNat v) := by
  unfold State.memWrite
  split
  · rename_i h; simp [h, eq_comm]
  · rename_i h; simp [h]

/-- Every data byte after a byte is stored (20_memory.md R53). -/
theorem dataByte_store {s : State} (hwf : Memory.wf s.dmem = true) (a : Word) (v : Byte) (b : Word) :
    (s.setDmem (Memory.write s.dmem a.toNat v)).dataByte b = if b = a then v else s.dataByte b := by
  have := Memory.read_write a.toNat v b.toNat hwf
  simp only [State.dataByte, State.setDmem_dmem, this]
  by_cases h : b = a
  · simp [h]
  · have : b.toNat ≠ a.toNat := fun e => h (BitVec.eq_of_toNat_eq e)
    simp [h, this]

/-- The words fetched depend on the instruction space and the pc alone. -/
theorem fetchWords_congr {s t : State} (hi : t.imem = s.imem) (hp : t.pc = s.pc) : t.fetchWords = s.fetchWords := by
  simp [State.fetchWords, State.imemRead, hi, hp]

end Sys2Proof.Machine
end

