-- ==== Sys2Proof/Laws/Ops.lean ====
section
/-! SUPPORT. What the primitives can do: raising (00_scope.md R13), the stack (10_state.md R33) and I/O (20_memory.md R55). -/

namespace Sys2Proof.Machine

/-- A primitive's continuation answers a next state exactly when the primitive answers a value. -/
theorem orRaise_next_iff {α : Type} {r : Except Fault α} {k : α → State} {t : State} :
    orRaise r k = .next t ↔ ∃ v, r = .ok v ∧ t = k v := by
  cases r <;> simp [orRaise, raise, eq_comm]

/-- It stops with exactly the primitive's fault. -/
theorem orRaise_fault_iff {α : Type} {r : Except Fault α} {k : α → State} {f : Fault} :
    orRaise r k = .fault f ↔ r = .error f := by
  cases r <;> simp [orRaise, raise]

/-- It is never refused. -/
theorem orRaise_not_refused {α : Type} {r : Except Fault α} {k : α → State} {why : Refusal} :
    orRaise r k ≠ .refused why := by
  cases r <;> simp [orRaise, raise]

@[simp] theorem raise_ne_next (f : Fault) (t : State) : raise f ≠ .next t := by simp [raise]

/-- What a push can do: it needs room for one item and puts the item on top. -/
theorem push_ok_iff {s t : State} {item : StackItem} :
    s.push item = .ok t ↔ s.stk.length < s.cfg.stackDepth ∧ t = s.setStk (item :: s.stk) := by
  unfold State.push
  split
  · rename_i h; simp; omega
  · rename_i h; simp [eq_comm]; omega

theorem push_error_iff {s : State} {item : StackItem} {f : Fault} :
    s.push item = .error f ↔ s.cfg.stackDepth ≤ s.stk.length ∧ f = .stackOverflow := by
  unfold State.push
  split
  · rename_i h; simp [h, eq_comm]
  · rename_i h; simp [h]

/-- What a pop can do: the top item is of the kind asked for, and is removed. -/
theorem pop_ok_iff {α : Type} {s : State} {take : StackItem → Option α} {v : α} {t : State} :
    s.pop take = .ok (v, t) ↔ ∃ top rest, s.stk = top :: rest ∧ take top = some v ∧ t = s.setStk rest := by
  unfold State.pop
  split
  · rename_i h; simp [h]
  · rename_i top rest h
    split
    · rename_i u hu
      simp [h, hu]
      intro _
      exact eq_comm
    · rename_i hn; simp [h, hn]

/-- A pop of an empty stack underflows; a pop of an item of another kind is a mismatch; there is no other fault. -/
theorem pop_error_iff {α : Type} {s : State} {take : StackItem → Option α} {f : Fault} :
    s.pop take = .error f ↔
      (s.stk = [] ∧ f = .stackUnderflow) ∨
        ∃ top rest, s.stk = top :: rest ∧ take top = none ∧ f = .stackKindMismatch := by
  unfold State.pop
  split
  · rename_i h; simp [h, eq_comm]
  · rename_i top rest h
    split
    · rename_i u hu; simp [h, hu]
    · rename_i hn; simp [h, hn, eq_comm]

theorem asRet_some_iff {item : StackItem} {a : Word} : item.asRet = some a ↔ item = .ret a := by
  cases item <;> simp [StackItem.asRet]

theorem asStat_some_iff {item : StackItem} {v : Status} : item.asStat = some v ↔ item = .stat v := by
  cases item <;> simp [StackItem.asStat]

theorem asByte_some_iff {item : StackItem} {b : Byte} : item.asByte = some b ↔ item = .byte b := by
  cases item <;> simp [StackItem.asByte]

@[simp] theorem ioRead_fst (s : State) (port : Byte) : (s.ioRead port).1 = s.ioAnswer port := rfl
@[simp] theorem ioRead_regs (s : State) (port : Byte) : (s.ioRead port).2.regs = s.regs := rfl
@[simp] theorem ioRead_pc (s : State) (port : Byte) : (s.ioRead port).2.pc = s.pc := rfl
@[simp] theorem ioRead_status (s : State) (port : Byte) : (s.ioRead port).2.status = s.status := rfl
@[simp] theorem ioRead_stk (s : State) (port : Byte) : (s.ioRead port).2.stk = s.stk := rfl
@[simp] theorem ioRead_halted (s : State) (port : Byte) : (s.ioRead port).2.halted = s.halted := rfl
@[simp] theorem ioRead_dmem (s : State) (port : Byte) : (s.ioRead port).2.dmem = s.dmem := rfl
@[simp] theorem ioRead_fault (s : State) (port : Byte) : (s.ioRead port).2.fault = s.fault := rfl
@[simp] theorem ioRead_imem (s : State) (port : Byte) : (s.ioRead port).2.imem = s.imem := rfl
@[simp] theorem ioRead_cfg (s : State) (port : Byte) : (s.ioRead port).2.cfg = s.cfg := rfl
@[simp] theorem ioRead_ioReads (s : State) (port : Byte) : (s.ioRead port).2.ioReads = s.ioReads + 1 := rfl
@[simp] theorem ioRead_flagDraws (s : State) (port : Byte) : (s.ioRead port).2.flagDraws = s.flagDraws := rfl

/-- IoRead logs the byte it answers. -/
theorem ioRead_log (s : State) (port : Byte) :
    (s.ioRead port).2.iolog = s.iolog ++ [.input port (s.ioRead port).1] := rfl

/-- IoWrite logs the byte it sends. -/
theorem ioWrite_log (s : State) (port v : Byte) : (s.ioWrite port v).iolog = s.iolog ++ [.output port v] := rfl

/-- An unconstrained environment answers with the free byte. -/
theorem ioAnswer_unconstrained {s : State} (h : s.cfg.environment = .unconstrained) (port : Byte) :
    s.ioAnswer port = Config.freeInput s.ioReads s.iolog port := by
  simp [State.ioAnswer, h, Environment.unconstrained, evalEnv]

/-- What the environment keeps depends on the log and on IO_ORACLE alone. -/
theorem envState_congr {s t : State} (hl : t.iolog = s.iolog) (he : t.cfg.environment = s.cfg.environment) :
    t.envState = s.envState := by
  simp [State.envState, hl, he]

/-- One more access takes the environment one move further. -/
theorem envState_snoc {s t : State} {e : IoEvent} (hl : t.iolog = s.iolog ++ [e])
    (he : t.cfg.environment = s.cfg.environment) : t.envState = envNext s.cfg.environment s.envState e := by
  simp [State.envState, hl, he]

end Sys2Proof.Machine
end

