-- ==== Sys2Proof/Laws/Shapes.lean ====
section
/-! SUPPORT. One lemma per shape of Machine/Shapes.lean that says everything it can do when it answers a next state; the provers cite these instead of unfolding the shapes. -/

namespace Sys2Proof.Machine

theorem writeResult_next_iff {rd : RegNum} {v : Byte} {row : FlagRow} {s t : State} :
    writeResult rd v row s = .next t ↔ t = ((s.writeReg rd v).writeFlags row).advance 1 := by
  simp [writeResult, eq_comm]

theorem compareSum_next_iff {x : BitVec 9} {s t : State} :
    compareSum x s = .next t ↔ t = (s.writeFlags (sumRow x)).advance 1 := by
  simp [compareSum, eq_comm]

/-- A post-modifying store needs its address mapped (43 R150). -/
theorem storePost_next_iff {rs : RegNum} {p : PairNum} {delta : Word} {s t : State} :
    storePost rs p delta s = .next t ↔
      dataMapped s.cfg (s.readPair p) = true ∧
        t = (((s.setDmem (Memory.write s.dmem (s.readPair p).toNat (s.readReg rs))).writePair p
          (s.readPair p + delta)).writeFlags keepRow).advance 1 := by
  simp only [storePost, orRaise_next_iff, memWrite_ok_iff]
  constructor
  · rintro ⟨u, ⟨hm, rfl⟩, rfl⟩; exact ⟨hm, rfl⟩
  · rintro ⟨hm, rfl⟩; exact ⟨_, ⟨hm, rfl⟩, rfl⟩

/-- A post-modifying load needs a register outside the pair and its address mapped (43 R150, R153). -/
theorem loadPost_next_iff {rd : RegNum} {p : PairNum} {delta : Word} {s t : State} :
    loadPost rd p delta s = .next t ↔
      inPair rd p = false ∧ dataMapped s.cfg (s.readPair p) = true ∧
        t = (((s.writeReg rd (s.dataByte (s.readPair p))).writePair p (s.readPair p + delta)).writeFlags keepRow).advance 1 := by
  unfold loadPost
  split
  · rename_i h; simp [h]
  · rename_i h
    simp only [orRaise_next_iff, memRead_ok_iff]
    constructor
    · rintro ⟨v, ⟨hm, rfl⟩, rfl⟩; exact ⟨by simpa using h, hm, rfl⟩
    · rintro ⟨_, hm, rfl⟩; exact ⟨_, ⟨hm, rfl⟩, rfl⟩

/-- A transfer always answers: the target where the condition holds, the next instruction where it does not. -/
theorem transfer_next_iff {cond : Cond} {target len : Word} {s t : State} :
    transfer cond target len s = .next t ↔
      t = if s.cond cond then s.setPc target else s.advance len := by
  unfold transfer
  split <;> simp [eq_comm]

/-- A relative branch answers unless its offset is refused (44 R165). -/
theorem relativeBranch_next_iff {cond : Cond} {a : BitVec 9} {s t : State} :
    relativeBranch cond a s = .next t ↔
      ∃ offset, widen s.cfg.brOffset a = .ok offset ∧
        t = if s.cond cond then s.setPc (s.pc + s.cfg.brBase.setWidth 16 + offset) else s.advance 1 := by
  unfold relativeBranch
  split
  · rename_i offset h; simp [transfer_next_iff, h]
  · rename_i f h; simp [h]

/-- A call answers a next state when it is not taken, or when the stack has room (47 R208). -/
theorem absoluteCall_next_iff {cond : Cond} {a : Word} {s t : State} :
    absoluteCall cond a s = .next t ↔
      (s.cond cond = true ∧ s.stk.length < s.cfg.stackDepth ∧ t = (s.setStk (.ret (s.pc + 2) :: s.stk)).setPc a) ∨
        (s.cond cond = false ∧ t = s.advance 2) := by
  unfold absoluteCall
  split
  · rename_i h
    simp only [orRaise_next_iff, push_ok_iff, h, true_and, Bool.true_eq_false, false_and, or_false]
    constructor
    · rintro ⟨u, ⟨hl, rfl⟩, rfl⟩; exact ⟨hl, rfl⟩
    · rintro ⟨hl, rfl⟩; exact ⟨_, ⟨hl, rfl⟩, rfl⟩
  · rename_i h; simp [h, eq_comm]

/-- A return answers a next state when it is not taken, or when a return address is on top (48 R220). -/
theorem subroutineReturn_next_iff {cond : Cond} {s t : State} :
    subroutineReturn cond s = .next t ↔
      (s.cond cond = true ∧ ∃ a rest, s.stk = .ret a :: rest ∧ t = (s.setStk rest).setPc a) ∨
        (s.cond cond = false ∧ t = s.advance 1) := by
  unfold subroutineReturn
  split
  · rename_i h
    simp only [orRaise_next_iff, h, true_and, Bool.true_eq_false, false_and, or_false]
    constructor
    · rintro ⟨⟨a, u⟩, hp, rfl⟩
      obtain ⟨top, rest, hs, ht, rfl⟩ := pop_ok_iff.1 hp
      exact ⟨a, rest, by rw [hs, asRet_some_iff.1 ht], rfl⟩
    · rintro ⟨a, rest, hs, rfl⟩
      exact ⟨(a, s.setStk rest), pop_ok_iff.2 ⟨_, rest, hs, rfl, rfl⟩, rfl⟩
  · rename_i h; simp [h, eq_comm]

/-! ### Widening (30_encoding.md R101) -/

theorem widen_ok_iff {n : Nat} {ext : Extension} {v : BitVec n} {x : Word} :
    widen ext v = .ok x ↔
      (ext = .signed ∧ x = v.signExtend 16) ∨ (ext = .unsigned ∧ x = v.setWidth 16) ∨
        (ext = .refuseTopBit ∧ v.msb = false ∧ x = v.setWidth 16) := by
  cases ext with
  | signed => simp only [widen, Except.ok.injEq, reduceCtorEq, false_and, or_false, true_and]; exact eq_comm
  | unsigned => simp only [widen, Except.ok.injEq, reduceCtorEq, false_and, or_false, false_or, true_and]; exact eq_comm
  | refuseTopBit =>
    cases h : v.msb
    · simp only [widen, h, Except.ok.injEq, reduceCtorEq, false_and, false_or, true_and, Bool.false_eq_true, if_false]; exact eq_comm
    · simp [widen, h]

/-- Only a top bit under `refuse_top_bit` is refused, as AmbiguousField. -/
theorem widen_error_iff {n : Nat} {ext : Extension} {v : BitVec n} {f : Fault} :
    widen ext v = .error f ↔ ext = .refuseTopBit ∧ v.msb = true ∧ f = .ambiguousField := by
  cases ext with
  | signed => simp [widen]
  | unsigned => simp [widen]
  | refuseTopBit =>
    cases h : v.msb
    · simp [widen, h]
    · simp only [widen, h, Except.error.injEq, true_and, if_true]; exact eq_comm

/-! ### Shifts (45 R181 to R185) -/

theorem shiftLeftIn_toNat (v : Byte) (low : Bool) : (shiftLeftIn v low).toNat = (2 * v.toNat + low.toNat) % 256 := by
  have hv := v.isLt
  have hl : low.toNat ≤ 1 := by cases low <;> simp
  simp only [shiftLeftIn, BitVec.toNat_append, BitVec.extractLsb'_toNat, BitVec.toNat_ofBool, Nat.shiftRight_zero]
  rw [Nat.shiftLeft_eq, Nat.mul_comm, ← Nat.two_pow_add_eq_or_of_lt (i := 1) (by omega)]
  omega

theorem shiftRightIn_toNat (high : Bool) (v : Byte) : (shiftRightIn high v).toNat = 128 * high.toNat + v.toNat / 2 := by
  have hv := v.isLt
  have hb : v.toNat >>> 1 % 2 ^ 7 = v.toNat / 2 := by omega
  simp only [shiftRightIn, BitVec.toNat_append, BitVec.extractLsb'_toNat, BitVec.toNat_ofBool, hb]
  rw [Nat.shiftLeft_eq, Nat.mul_comm, ← Nat.two_pow_add_eq_or_of_lt (by omega)]

end Sys2Proof.Machine
end

