-- ==== Sys2Proof/Laws/Results.lean ====
section
/-! SUPPORT. What the shared ways of writing a result leave, in the terms of Safety.lean. -/

namespace Sys2Proof.Machine

/-- Legal parameters have three distinct flag bits (00_scope.md R8). -/
theorem flagBitsDistinct_of_wf {cfg : Config} (h : cfg.wf = true) : cfg.flagBitsDistinct = true := by
  simp only [Config.wf, Bool.and_eq_true] at h
  exact h.1.1

/-- A flag row leaves every bit of `s` but those of the flags it gives a value and those left to a draw. -/
theorem statusKept_writeFlags (s : State) (row : FlagRow) (flags : List Flag) (hc : row.c ≠ none → Flag.c ∈ flags)
    (hz : row.z ≠ none → Flag.z ∈ flags) (hn : row.n ≠ none → Flag.n ∈ flags) :
    StatusKept (flags ++ drawnFlags s) s (s.writeFlags row) := by
  intro j hj
  cases hm : s.cfg.flagModel
  · rw [writeFlags_conventional hm]
    refine conventionalFlags_status s row (fun h => ?_) (fun h => ?_) (fun h => ?_)
    · exact hj _ (List.mem_append_left _ (hc h))
    · exact hj _ (List.mem_append_left _ (hz h))
    · exact hj _ (List.mem_append_left _ (hn h))
  · refine writeFlags_status_unnamed s row fun f => hj f (List.mem_append_right _ ?_)
    cases f <;> simp [drawnFlags, hm]

/-- What a register result with its flags leaves. -/
theorem writesResult_writeReg (s : State) (rd : RegNum) (v : Byte) (row : FlagRow) (flags : List Flag)
    (hc : row.c ≠ none → Flag.c ∈ flags) (hz : row.z ≠ none → Flag.z ∈ flags) (hn : row.n ≠ none → Flag.n ∈ flags) :
    WritesResult rd v flags s (((s.writeReg rd v).writeFlags row).advance 1) := by
  refine ⟨by simp, by simp, ⟨?_, ?_, ?_, ?_, ?_, ?_⟩, ?_⟩
  · intro r hr
    simp only [List.mem_singleton] at hr
    simp [readReg_writeReg, hr]
  · intro j hj
    simpa using statusKept_writeFlags (s.writeReg rd v) row flags hc hz hn j (by simpa [drawnFlags] using hj)
  · intro a; simp [State.dataByte]
  · simp [StackKept]
  · simp [IoKept]
  · simp [RunKept]
  · simp [DrawCounted, writeFlags_flagDraws]

/-- The flags after a register result under FLAG_MODEL = conventional (10_state.md R29). -/
theorem flags_writeReg_conventional {s : State} (rd : RegNum) (v : Byte) (row : FlagRow) (hwf : s.cfg.wf = true)
    (hm : s.cfg.flagModel = .conventional) :
    (((s.writeReg rd v).writeFlags row).advance 1).flag .c = row.c.getD (s.flag .c) ∧
    (((s.writeReg rd v).writeFlags row).advance 1).flag .z = row.z.getD (s.flag .z) ∧
    (((s.writeReg rd v).writeFlags row).advance 1).flag .n = row.n.getD (s.flag .n) := by
  have h := conventionalFlags_flag (s.writeReg rd v) row (by simpa using flagBitsDistinct_of_wf hwf)
  rw [writeFlags_conventional (by simpa using hm)]
  exact h

/-- What an operation leaves that writes no flag of its own and then goes on: a pair written, or a register and a pair. -/
theorem onlyRegs_keepRow {s u : State} {regs : List RegNum} (hr : RegsKept regs s u) (hs : u.status = s.status)
    (hd : u.dmem = s.dmem) (hk : u.stk = s.stk) (hio : u.iolog = s.iolog ∧ u.ioReads = s.ioReads) (hf : u.flagDraws = s.flagDraws)
    (hp : u.pc = s.pc) (hrun : RunKept s u) : OnlyRegs regs s ((u.writeFlags keepRow).advance 1) := by
  obtain ⟨hh, hfa, hi, hcfg⟩ := hrun
  refine ⟨by simp [hp], ⟨?_, ?_, ?_, ?_, ?_, ?_⟩, ?_⟩
  · intro r hm
    simpa using hr r hm
  · intro j hj
    have := statusKept_writeFlags u keepRow [] (by simp [keepRow]) (by simp [keepRow]) (by simp [keepRow]) j
      (by simpa [drawnFlags, hcfg] using hj)
    simpa [hs] using this
  · intro a; simp [State.dataByte, hd]
  · simp [StackKept, hk]
  · simp [IoKept, hio]
  · simp [RunKept, hh, hfa, hi, hcfg]
  · simp [DrawCounted, writeFlags_flagDraws, hf, hcfg]

/-- The registers of a pair are its high and its low register. -/
theorem mem_pairRegs {r : RegNum} {p : PairNum} : r ∈ pairRegs p ↔ inPair r p = true := by
  simp [pairRegs, inPair]

/-- Writing a pair leaves every register outside it. -/
theorem regsKept_writePair (s : State) (p : PairNum) (v : Word) : RegsKept (pairRegs p) s (s.writePair p v) := by
  intro r hr
  refine readReg_writePair_other s p v ?_
  cases h : inPair r p
  · rfl
  · exact absurd (mem_pairRegs.2 h) hr

end Sys2Proof.Machine
end

