-- ==== Sys2Proof/Laws/Exec.lean ====
section
/-! SUPPORT. What an instruction can do, said once: every next state has one of the forms of NextForm, with the facts about the instruction that the form is for. Statements about all instructions go through `exec_nextForm` instead of unfolding the meanings. -/

namespace Sys2Proof.Machine

/-- A row gives a value only to flags in the list. -/
def FlagRow.Within (row : FlagRow) (flags : List Flag) : Prop :=
  (row.c ≠ none → Flag.c ∈ flags) ∧ (row.z ≠ none → Flag.z ∈ flags) ∧ (row.n ≠ none → Flag.n ∈ flags)

theorem keepRow_within {flags : List Flag} : keepRow.Within flags :=
  ⟨fun h => absurd rfl h, fun h => absurd rfl h, fun h => absurd rfl h⟩

/-- The forms of a next state. -/
inductive NextForm (i : Instr) (s : State) : State → Prop where
  /-- One register and its flags: Type R-I, Type R-R, Type R without POP, LDR. -/
  | result (rd : RegNum) (v : Byte) (row : FlagRow) (hr : registersWritten i = [rd]) (hio : ∀ r io, i ≠ .inp r io)
      (hrow : row.Within (flagsWritten i)) : NextForm i s (((s.writeReg rd v).writeFlags row).advance 1)
  /-- CPI, CMP. -/
  | compare (x : BitVec 9) (hr : registersWritten i = []) (hf : flagsWritten i = [.c, .z, .n]) :
      NextForm i s ((s.writeFlags (sumRow x)).advance 1)
  /-- IN. -/
  | input (rd : RegNum) (io : Byte) (hi : i = .inp rd io) :
      NextForm i s ((((s.ioRead io).2.writeReg rd (s.ioRead io).1).writeFlags keepRow).advance 1)
  /-- OUT. -/
  | output (rs : RegNum) (io : Byte) (hi : i = .out rs io) : NextForm i s ((s.ioWrite io (s.readReg rs)).advance 1)
  /-- SRI, SRD. -/
  | storePost (rs : RegNum) (p : PairNum) (delta : Word) (hi : i = .sri rs p ∨ i = .srd rs p)
      (hm : dataMapped s.cfg (s.readPair p) = true) :
      NextForm i s ((((s.setDmem (Memory.write s.dmem (s.readPair p).toNat (s.readReg rs))).writePair p
        (s.readPair p + delta)).writeFlags keepRow).advance 1)
  /-- LRI, LRD. -/
  | loadPost (rd : RegNum) (p : PairNum) (delta : Word) (hi : i = .lri rd p ∨ i = .lrd rd p) (ho : inPair rd p = false)
      (hm : dataMapped s.cfg (s.readPair p) = true) :
      NextForm i s ((((s.writeReg rd (s.dataByte (s.readPair p))).writePair p (s.readPair p + delta)).writeFlags keepRow).advance 1)
  /-- STR. -/
  | store (rs : RegNum) (p : PairNum) (k : BitVec 5) (addr : Word) (hi : i = .str rs p k) (ha : s.offsetAddress p k = .ok addr)
      (hm : dataMapped s.cfg addr = true) : NextForm i s ((s.setDmem (Memory.write s.dmem addr.toNat (s.readReg rs))).advance 1)
  /-- API, MVP. -/
  | pair (p : PairNum) (v : Word) (hi : (∃ b, i = .api p b) ∨ ∃ ps, i = .mvp p ps) :
      NextForm i s (((s.writePair p v).writeFlags keepRow).advance 1)
  /-- POP. -/
  | pop (rd : RegNum) (b : Byte) (rest : List StackItem) (hi : i = .pop rd) (hs : s.stk = .byte b :: rest) :
      NextForm i s ((((s.setStk rest).writeReg rd b).writeFlags keepRow).advance 1)
  /-- A transfer that writes the pc alone, taken or not. -/
  | goto (target : Word) (hi : IsTransfer i) : NextForm i s (s.setPc target)
  /-- A taken call. -/
  | call (cond : Cond) (a : Word) (hi : i = .callTo cond a) (hc : s.cond cond = true) (hl : s.stk.length < s.cfg.stackDepth) :
      NextForm i s ((s.setStk (.ret (s.pc + 2) :: s.stk)).setPc a)
  /-- A taken return. -/
  | ret (cond : Cond) (a : Word) (rest : List StackItem) (hi : i = .returnOn cond) (hc : s.cond cond = true)
      (hs : s.stk = .ret a :: rest) : NextForm i s ((s.setStk rest).setPc a)
  /-- PUS. -/
  | pus (hi : i = .pus) (hl : s.stk.length < s.cfg.stackDepth) : NextForm i s ((s.setStk (.stat s.status :: s.stk)).advance 1)
  /-- POS. -/
  | pos (v : Status) (rest : List StackItem) (hi : i = .pos) (hs : s.stk = .stat v :: rest) :
      NextForm i s (((s.setStk rest).setStatus v).advance 1)
  /-- NOP. -/
  | nop (hi : i = .nop) : NextForm i s (s.advance 1)
  /-- HLT. -/
  | hlt (hi : i = .hlt) : NextForm i s (s.setHalted.advance 1)
  /-- SSR, CSR. -/
  | status (v : Status) (hi : (∃ m, i = .ssr m) ∨ ∃ m, i = .csr m) : NextForm i s ((s.setStatus v).advance 1)

/-! ### The shapes -/

theorem NextForm.of_writeResult {i : Instr} {rd : RegNum} {v : Byte} {row : FlagRow} {s t : State}
    (h : writeResult rd v row s = .next t) (hr : registersWritten i = [rd]) (hio : ∀ r io, i ≠ .inp r io)
    (hrow : row.Within (flagsWritten i)) : NextForm i s t :=
  writeResult_next_iff.1 h ▸ .result rd v row hr hio hrow

theorem NextForm.of_transfer {i : Instr} {cond : Cond} {target len : Word} {s t : State} (hi : IsTransfer i)
    (h : transfer cond target len s = .next t) : NextForm i s t := by
  rw [transfer_next_iff.1 h]
  split
  · exact .goto _ hi
  · exact .goto _ hi

theorem NextForm.of_relativeBranch {i : Instr} {cond : Cond} {a : BitVec 9} {s t : State} (hi : i = .branch cond a)
    (h : relativeBranch cond a s = .next t) : NextForm i s t := by
  obtain ⟨offset, _, rfl⟩ := relativeBranch_next_iff.1 h
  split
  · exact .goto _ ⟨cond, .inl ⟨a, hi⟩⟩
  · exact .goto _ ⟨cond, .inl ⟨a, hi⟩⟩

theorem NextForm.of_absoluteCall {i : Instr} {cond : Cond} {a : Word} {s t : State} (hi : i = .callTo cond a)
    (h : absoluteCall cond a s = .next t) : NextForm i s t := by
  obtain ⟨hc, hl, rfl⟩ | ⟨_, rfl⟩ := absoluteCall_next_iff.1 h
  · exact .call cond a hi hc hl
  · exact .goto _ ⟨cond, .inr (.inr (.inr (.inl ⟨a, hi⟩)))⟩

theorem NextForm.of_subroutineReturn {i : Instr} {cond : Cond} {s t : State} (hi : i = .returnOn cond)
    (h : subroutineReturn cond s = .next t) : NextForm i s t := by
  obtain ⟨hc, a, rest, hs, rfl⟩ | ⟨_, rfl⟩ := subroutineReturn_next_iff.1 h
  · exact .ret cond a rest hi hc hs
  · exact .goto _ ⟨cond, .inr (.inr (.inr (.inr hi)))⟩

/-! ### The meanings that go through a primitive of their own -/

theorem execStr_next_iff {rs : RegNum} {p : PairNum} {k : BitVec 5} {s t : State} :
    execStr rs p k s = .next t ↔ ∃ addr, s.offsetAddress p k = .ok addr ∧ dataMapped s.cfg addr = true ∧
      t = (s.setDmem (Memory.write s.dmem addr.toNat (s.readReg rs))).advance 1 := by
  unfold execStr
  split
  · rename_i addr h; simp [h, orRaise_next_iff, memWrite_ok_iff]
  · rename_i f h; simp [h]

theorem execLdr_next_iff {rd : RegNum} {p : PairNum} {k : BitVec 5} {s t : State} :
    execLdr rd p k s = .next t ↔ ∃ addr, s.offsetAddress p k = .ok addr ∧ dataMapped s.cfg addr = true ∧
      t = ((s.writeReg rd (s.dataByte addr)).writeFlags keepRow).advance 1 := by
  unfold execLdr
  split
  · rename_i addr h; simp [h, orRaise_next_iff, memRead_ok_iff]
  · rename_i f h; simp [h]

theorem execApi_next_iff {p : PairNum} {i : BitVec 9} {s t : State} :
    execApi p i s = .next t ↔ ∃ imm, widen s.cfg.apiImm i = .ok imm ∧
      t = ((s.writePair p (s.readPair p + imm)).writeFlags keepRow).advance 1 :=
  orRaise_next_iff

theorem execPop_next_iff {rd : RegNum} {s t : State} :
    execPop rd s = .next t ↔ ∃ b rest, s.stk = .byte b :: rest ∧
      t = (((s.setStk rest).writeReg rd b).writeFlags keepRow).advance 1 := by
  unfold execPop
  rw [orRaise_next_iff]
  constructor
  · rintro ⟨⟨b, u⟩, hp, rfl⟩
    obtain ⟨top, rest, hs, ht, rfl⟩ := pop_ok_iff.1 hp
    exact ⟨b, rest, by rw [hs, asByte_some_iff.1 ht], rfl⟩
  · rintro ⟨b, rest, hs, rfl⟩
    exact ⟨(b, s.setStk rest), pop_ok_iff.2 ⟨_, rest, hs, rfl, rfl⟩, rfl⟩

theorem execPus_next_iff {s t : State} :
    execPus s = .next t ↔ s.stk.length < s.cfg.stackDepth ∧ t = (s.setStk (.stat s.status :: s.stk)).advance 1 := by
  unfold execPus
  rw [orRaise_next_iff]
  constructor
  · rintro ⟨u, hp, rfl⟩
    obtain ⟨hl, rfl⟩ := push_ok_iff.1 hp
    exact ⟨hl, rfl⟩
  · rintro ⟨hl, rfl⟩
    exact ⟨_, push_ok_iff.2 ⟨hl, rfl⟩, rfl⟩

theorem execPos_next_iff {s t : State} :
    execPos s = .next t ↔ ∃ v rest, s.stk = .stat v :: rest ∧ t = ((s.setStk rest).setStatus v).advance 1 := by
  unfold execPos
  rw [orRaise_next_iff]
  constructor
  · rintro ⟨⟨v, u⟩, hp, rfl⟩
    obtain ⟨top, rest, hs, ht, rfl⟩ := pop_ok_iff.1 hp
    exact ⟨v, rest, by rw [hs, asStat_some_iff.1 ht], rfl⟩
  · rintro ⟨v, rest, hs, rfl⟩
    exact ⟨(v, s.setStk rest), pop_ok_iff.2 ⟨_, rest, hs, rfl, rfl⟩, rfl⟩

/-! ### Every instruction -/

/-- Every next state of every instruction has its form. -/
theorem exec_nextForm {i : Instr} {s t : State} (h : exec i s = .next t) : NextForm i s t := by
  cases i with
  | ldi rd i => exact NextForm.of_writeResult h rfl (by simp) keepRow_within
  | ani rd i => exact NextForm.of_writeResult h rfl (by simp) ⟨fun k => absurd rfl k, fun _ => by simp [flagsWritten], fun _ => by simp [flagsWritten]⟩
  | ori rd i => exact NextForm.of_writeResult h rfl (by simp) ⟨fun k => absurd rfl k, fun _ => by simp [flagsWritten], fun _ => by simp [flagsWritten]⟩
  | xoi rd i => exact NextForm.of_writeResult h rfl (by simp) ⟨fun k => absurd rfl k, fun _ => by simp [flagsWritten], fun _ => by simp [flagsWritten]⟩
  | adi rd i => exact NextForm.of_writeResult h rfl (by simp) ⟨fun _ => by simp [flagsWritten], fun _ => by simp [flagsWritten], fun _ => by simp [flagsWritten]⟩
  | aci rd i => exact NextForm.of_writeResult h rfl (by simp) ⟨fun _ => by simp [flagsWritten], fun _ => by simp [flagsWritten], fun _ => by simp [flagsWritten]⟩
  | cpi rd i => exact compareSum_next_iff.1 h ▸ .compare _ rfl rfl
  | inp rd io => exact writeResult_next_iff.1 h ▸ .input rd io rfl
  | out rs io =>
    cases h
    exact .output rs io rfl
  | mov rd rs => exact NextForm.of_writeResult h rfl (by simp) keepRow_within
  | and rd rs => exact NextForm.of_writeResult h rfl (by simp) ⟨fun k => absurd rfl k, fun _ => by simp [flagsWritten], fun _ => by simp [flagsWritten]⟩
  | or rd rs => exact NextForm.of_writeResult h rfl (by simp) ⟨fun k => absurd rfl k, fun _ => by simp [flagsWritten], fun _ => by simp [flagsWritten]⟩
  | xor rd rs => exact NextForm.of_writeResult h rfl (by simp) ⟨fun k => absurd rfl k, fun _ => by simp [flagsWritten], fun _ => by simp [flagsWritten]⟩
  | add rd rs => exact NextForm.of_writeResult h rfl (by simp) ⟨fun _ => by simp [flagsWritten], fun _ => by simp [flagsWritten], fun _ => by simp [flagsWritten]⟩
  | adc rd rs => exact NextForm.of_writeResult h rfl (by simp) ⟨fun _ => by simp [flagsWritten], fun _ => by simp [flagsWritten], fun _ => by simp [flagsWritten]⟩
  | cmp rd rs => exact compareSum_next_iff.1 h ▸ .compare _ rfl rfl
  | sub rd rs => exact NextForm.of_writeResult h rfl (by simp) ⟨fun _ => by simp [flagsWritten], fun _ => by simp [flagsWritten], fun _ => by simp [flagsWritten]⟩
  | sbb rd rs => exact NextForm.of_writeResult h rfl (by simp) ⟨fun _ => by simp [flagsWritten], fun _ => by simp [flagsWritten], fun _ => by simp [flagsWritten]⟩
  | sri rs p =>
    obtain ⟨hm, rfl⟩ := storePost_next_iff.1 h
    exact .storePost rs p _ (.inl rfl) hm
  | srd rs p =>
    obtain ⟨hm, rfl⟩ := storePost_next_iff.1 h
    exact .storePost rs p _ (.inr rfl) hm
  | lri rd p =>
    obtain ⟨hi, hm, rfl⟩ := loadPost_next_iff.1 h
    exact .loadPost rd p _ (.inl rfl) hi hm
  | lrd rd p =>
    obtain ⟨hi, hm, rfl⟩ := loadPost_next_iff.1 h
    exact .loadPost rd p _ (.inr rfl) hi hm
  | str rs p k =>
    obtain ⟨addr, ha, hm, rfl⟩ := execStr_next_iff.1 h
    exact .store rs p k addr rfl ha hm
  | ldr rd p k =>
    obtain ⟨addr, ha, hm, rfl⟩ := execLdr_next_iff.1 h
    exact .result rd _ keepRow rfl (by simp) keepRow_within
  | api p i =>
    obtain ⟨imm, hi, rfl⟩ := execApi_next_iff.1 h
    exact .pair p _ (.inl ⟨i, rfl⟩)
  | br a => exact NextForm.of_relativeBranch (cond := .always) rfl h
  | bc a => exact NextForm.of_relativeBranch (cond := .c) rfl h
  | bnc a => exact NextForm.of_relativeBranch (cond := .nc) rfl h
  | bz a => exact NextForm.of_relativeBranch (cond := .z) rfl h
  | bnz a => exact NextForm.of_relativeBranch (cond := .nz) rfl h
  | bn a => exact NextForm.of_relativeBranch (cond := .n) rfl h
  | bnn a => exact NextForm.of_relativeBranch (cond := .nn) rfl h
  | sll rd => exact NextForm.of_writeResult h rfl (by simp) ⟨fun _ => by simp [flagsWritten], fun _ => by simp [flagsWritten], fun _ => by simp [flagsWritten]⟩
  | srl rd => exact NextForm.of_writeResult h rfl (by simp) ⟨fun _ => by simp [flagsWritten], fun _ => by simp [flagsWritten], fun _ => by simp [flagsWritten]⟩
  | sra rd => exact NextForm.of_writeResult h rfl (by simp) ⟨fun _ => by simp [flagsWritten], fun _ => by simp [flagsWritten], fun _ => by simp [flagsWritten]⟩
  | rlc rd => exact NextForm.of_writeResult h rfl (by simp) ⟨fun _ => by simp [flagsWritten], fun _ => by simp [flagsWritten], fun _ => by simp [flagsWritten]⟩
  | rrc rd => exact NextForm.of_writeResult h rfl (by simp) ⟨fun _ => by simp [flagsWritten], fun _ => by simp [flagsWritten], fun _ => by simp [flagsWritten]⟩
  | not rd => exact NextForm.of_writeResult h rfl (by simp) ⟨fun k => absurd rfl k, fun _ => by simp [flagsWritten], fun _ => by simp [flagsWritten]⟩
  | pop rd =>
    obtain ⟨b, rest, hs, rfl⟩ := execPop_next_iff.1 h
    exact .pop rd b rest rfl hs
  | jmpi p => exact NextForm.of_transfer (cond := .always) (target := s.readPair p) (len := 1) ⟨.always, .inr (.inl ⟨p, rfl⟩)⟩ h
  | jci p => exact NextForm.of_transfer (cond := .c) (target := s.readPair p) (len := 1) ⟨.c, .inr (.inl ⟨p, rfl⟩)⟩ h
  | jnci p => exact NextForm.of_transfer (cond := .nc) (target := s.readPair p) (len := 1) ⟨.nc, .inr (.inl ⟨p, rfl⟩)⟩ h
  | jzi p => exact NextForm.of_transfer (cond := .z) (target := s.readPair p) (len := 1) ⟨.z, .inr (.inl ⟨p, rfl⟩)⟩ h
  | jnzi p => exact NextForm.of_transfer (cond := .nz) (target := s.readPair p) (len := 1) ⟨.nz, .inr (.inl ⟨p, rfl⟩)⟩ h
  | jni p => exact NextForm.of_transfer (cond := .n) (target := s.readPair p) (len := 1) ⟨.n, .inr (.inl ⟨p, rfl⟩)⟩ h
  | jnni p => exact NextForm.of_transfer (cond := .nn) (target := s.readPair p) (len := 1) ⟨.nn, .inr (.inl ⟨p, rfl⟩)⟩ h
  | jmp a => exact NextForm.of_transfer (cond := .always) (target := a) (len := 2) ⟨.always, .inr (.inr (.inl ⟨a, rfl⟩))⟩ h
  | jc a => exact NextForm.of_transfer (cond := .c) (target := a) (len := 2) ⟨.c, .inr (.inr (.inl ⟨a, rfl⟩))⟩ h
  | jnc a => exact NextForm.of_transfer (cond := .nc) (target := a) (len := 2) ⟨.nc, .inr (.inr (.inl ⟨a, rfl⟩))⟩ h
  | jz a => exact NextForm.of_transfer (cond := .z) (target := a) (len := 2) ⟨.z, .inr (.inr (.inl ⟨a, rfl⟩))⟩ h
  | jnz a => exact NextForm.of_transfer (cond := .nz) (target := a) (len := 2) ⟨.nz, .inr (.inr (.inl ⟨a, rfl⟩))⟩ h
  | jn a => exact NextForm.of_transfer (cond := .n) (target := a) (len := 2) ⟨.n, .inr (.inr (.inl ⟨a, rfl⟩))⟩ h
  | jnn a => exact NextForm.of_transfer (cond := .nn) (target := a) (len := 2) ⟨.nn, .inr (.inr (.inl ⟨a, rfl⟩))⟩ h
  | call a => exact NextForm.of_absoluteCall (cond := .always) rfl h
  | cc a => exact NextForm.of_absoluteCall (cond := .c) rfl h
  | cnc a => exact NextForm.of_absoluteCall (cond := .nc) rfl h
  | cz a => exact NextForm.of_absoluteCall (cond := .z) rfl h
  | cnz a => exact NextForm.of_absoluteCall (cond := .nz) rfl h
  | cn a => exact NextForm.of_absoluteCall (cond := .n) rfl h
  | cnn a => exact NextForm.of_absoluteCall (cond := .nn) rfl h
  | ret => exact NextForm.of_subroutineReturn (cond := .always) rfl h
  | rc => exact NextForm.of_subroutineReturn (cond := .c) rfl h
  | rnc => exact NextForm.of_subroutineReturn (cond := .nc) rfl h
  | rz => exact NextForm.of_subroutineReturn (cond := .z) rfl h
  | rnz => exact NextForm.of_subroutineReturn (cond := .nz) rfl h
  | rn => exact NextForm.of_subroutineReturn (cond := .n) rfl h
  | rnn => exact NextForm.of_subroutineReturn (cond := .nn) rfl h
  | pus =>
    obtain ⟨hl, rfl⟩ := execPus_next_iff.1 h
    exact .pus rfl hl
  | pos =>
    obtain ⟨v, rest, hs, rfl⟩ := execPos_next_iff.1 h
    exact .pos v rest rfl hs
  | nop =>
    cases h
    exact .nop rfl
  | hlt =>
    cases h
    exact .hlt rfl
  | ssr m =>
    cases h
    exact .status _ (.inl ⟨m, rfl⟩)
  | csr m =>
    cases h
    exact .status _ (.inr ⟨m, rfl⟩)
  | mvp pd ps =>
    cases h
    exact .pair pd _ (.inr ⟨ps, rfl⟩)

end Sys2Proof.Machine
end

