-- ==== Sys2Proof/Laws/Faults.lean ====
section
/-! SUPPORT. One lemma per primitive and per shape that says everything it can do when it stops with a fault (60_exceptions.md R241, R245). Beside the lemmas of Laws/Shapes.lean on next states, these are what a statement about faults goes through. -/

namespace Sys2Proof.Machine

theorem raise_fault_iff {f g : Fault} : raise g = .fault f ↔ f = g := by
  simp [raise, eq_comm]

theorem asRet_none_iff {item : StackItem} : item.asRet = none ↔ ∀ a, item ≠ .ret a := by
  cases item <;> simp [StackItem.asRet]

theorem asStat_none_iff {item : StackItem} : item.asStat = none ↔ ∀ v, item ≠ .stat v := by
  cases item <;> simp [StackItem.asStat]

theorem asByte_none_iff {item : StackItem} : item.asByte = none ↔ ∀ b, item ≠ .byte b := by
  cases item <;> simp [StackItem.asByte]

/-- A read faults only at an address that is not mapped (20_memory.md R52). -/
theorem memRead_error_iff {s : State} {a : Word} {f : Fault} :
    s.memRead a = .error f ↔ dataMapped s.cfg a = false ∧ f = .unmappedData a := by
  cases h : dataMapped s.cfg a <;> simp [State.memRead, h, eq_comm]

/-- A write faults only at an address that is not mapped (20_memory.md R53). -/
theorem memWrite_error_iff {s : State} {a : Word} {v : Byte} {f : Fault} :
    s.memWrite a v = .error f ↔ dataMapped s.cfg a = false ∧ f = .unmappedData a := by
  cases h : dataMapped s.cfg a <;> simp [State.memWrite, h, eq_comm]

/-- The address of STR and LDR is the pair plus the widened offset (43 R155). -/
theorem offsetAddress_ok_iff {s : State} {p : PairNum} {k : BitVec 5} {addr : Word} :
    s.offsetAddress p k = .ok addr ↔ ∃ x, widen s.cfg.kOffset k = .ok x ∧ addr = s.readPair p + x := by
  unfold State.offsetAddress
  split <;> rename_i h <;> simp [h, eq_comm]

theorem offsetAddress_error_iff {s : State} {p : PairNum} {k : BitVec 5} {f : Fault} :
    s.offsetAddress p k = .error f ↔ widen s.cfg.kOffset k = .error f := by
  unfold State.offsetAddress
  split <;> rename_i h <;> simp [h]

theorem storePost_fault_iff {rs : RegNum} {p : PairNum} {delta : Word} {s : State} {f : Fault} :
    storePost rs p delta s = .fault f ↔ dataMapped s.cfg (s.readPair p) = false ∧ f = .unmappedData (s.readPair p) := by
  rw [storePost, orRaise_fault_iff, memWrite_error_iff]

/-- The overlap is looked at before the address (60_exceptions.md R245 (6), (8)). -/
theorem loadPost_fault_iff {rd : RegNum} {p : PairNum} {delta : Word} {s : State} {f : Fault} :
    loadPost rd p delta s = .fault f ↔
      (inPair rd p = true ∧ f = .registerOverlap) ∨
        (inPair rd p = false ∧ dataMapped s.cfg (s.readPair p) = false ∧ f = .unmappedData (s.readPair p)) := by
  unfold loadPost
  split
  · rename_i h; simp only [raise_fault_iff, h, true_and, Bool.true_eq_false, false_and, or_false]
  · rename_i h; simp [h, orRaise_fault_iff, memRead_error_iff]

theorem transfer_ne_fault {cond : Cond} {target len : Word} {s : State} {f : Fault} :
    transfer cond target len s ≠ .fault f := by
  unfold transfer
  split <;> simp

/-- A relative branch faults only where its offset is refused, whether or not its condition holds (60_exceptions.md R245 (4)). -/
theorem relativeBranch_fault_iff {cond : Cond} {a : BitVec 9} {s : State} {f : Fault} :
    relativeBranch cond a s = .fault f ↔ widen s.cfg.brOffset a = .error f := by
  unfold relativeBranch
  split <;> rename_i h <;> simp [h, transfer_ne_fault, raise]

/-- A call faults only where it is taken on a full stack (47 R208). -/
theorem absoluteCall_fault_iff {cond : Cond} {a : Word} {s : State} {f : Fault} :
    absoluteCall cond a s = .fault f ↔ s.cond cond = true ∧ s.cfg.stackDepth ≤ s.stk.length ∧ f = .stackOverflow := by
  cases h : s.cond cond <;> simp [absoluteCall, h, orRaise_fault_iff, push_error_iff]

/-- A return faults only where it is taken without a return address on top (48 R220). -/
theorem subroutineReturn_fault_iff {cond : Cond} {s : State} {f : Fault} :
    subroutineReturn cond s = .fault f ↔
      s.cond cond = true ∧ ((s.stk = [] ∧ f = .stackUnderflow) ∨
        ∃ top rest, s.stk = top :: rest ∧ (∀ a, top ≠ .ret a) ∧ f = .stackKindMismatch) := by
  cases h : s.cond cond <;> simp [subroutineReturn, h, orRaise_fault_iff, pop_error_iff, asRet_none_iff]

end Sys2Proof.Machine
end

