-- ==== Sys2Proof/Laws/PerInstr.lean ====
section
/-! SUPPORT. What holds of every instruction as syntax, one lemma per constructor. -/

namespace Sys2Proof.Laws.EncodedLength

/-- The encoding of a well-formed instruction has as many words as 30_encoding.md R80 gives it: two for Type A, one for every other. -/
def Statement (i : Instr) : Prop :=
  ∀ cfg : Config, i.wellFormed cfg = true → (encode cfg i).length = i.length

theorem ldi (rd : RegNum) (i : Byte) : Statement (.ldi rd i) := fun _ _ => rfl
theorem ani (rd : RegNum) (i : Byte) : Statement (.ani rd i) := fun _ _ => rfl
theorem ori (rd : RegNum) (i : Byte) : Statement (.ori rd i) := fun _ _ => rfl
theorem xoi (rd : RegNum) (i : Byte) : Statement (.xoi rd i) := fun _ _ => rfl
theorem adi (rd : RegNum) (i : Byte) : Statement (.adi rd i) := fun _ _ => rfl
theorem aci (rd : RegNum) (i : Byte) : Statement (.aci rd i) := fun _ _ => rfl
theorem cpi (rd : RegNum) (i : Byte) : Statement (.cpi rd i) := fun _ _ => rfl
theorem inp (rd : RegNum) (io : Byte) : Statement (.inp rd io) := fun _ _ => rfl
theorem out (rs : RegNum) (io : Byte) : Statement (.out rs io) := fun _ _ => rfl
theorem mov (rd rs : RegNum) : Statement (.mov rd rs) := fun _ _ => rfl
theorem and (rd rs : RegNum) : Statement (.and rd rs) := fun _ _ => rfl
theorem or (rd rs : RegNum) : Statement (.or rd rs) := fun _ _ => rfl
theorem xor (rd rs : RegNum) : Statement (.xor rd rs) := fun _ _ => rfl
theorem add (rd rs : RegNum) : Statement (.add rd rs) := fun _ _ => rfl
theorem adc (rd rs : RegNum) : Statement (.adc rd rs) := fun _ _ => rfl
theorem cmp (rd rs : RegNum) : Statement (.cmp rd rs) := fun _ _ => rfl
theorem sub (rd rs : RegNum) : Statement (.sub rd rs) := fun _ _ => rfl
theorem sbb (rd rs : RegNum) : Statement (.sbb rd rs) := fun _ _ => rfl
theorem sri (rs : RegNum) (p : PairNum) : Statement (.sri rs p) := fun _ _ => rfl
theorem srd (rs : RegNum) (p : PairNum) : Statement (.srd rs p) := fun _ _ => rfl
theorem lri (rd : RegNum) (p : PairNum) : Statement (.lri rd p) := fun _ _ => rfl
theorem lrd (rd : RegNum) (p : PairNum) : Statement (.lrd rd p) := fun _ _ => rfl
theorem str (rs : RegNum) (p : PairNum) (k : BitVec 5) : Statement (.str rs p k) := fun _ _ => rfl
theorem ldr (rd : RegNum) (p : PairNum) (k : BitVec 5) : Statement (.ldr rd p k) := fun _ _ => rfl
theorem api (p : PairNum) (i : BitVec 9) : Statement (.api p i) := fun _ _ => rfl
theorem br (a : BitVec 9) : Statement (.br a) := fun _ _ => rfl
theorem bc (a : BitVec 9) : Statement (.bc a) := fun _ _ => rfl
theorem bnc (a : BitVec 9) : Statement (.bnc a) := fun _ _ => rfl
theorem bz (a : BitVec 9) : Statement (.bz a) := fun _ _ => rfl
theorem bnz (a : BitVec 9) : Statement (.bnz a) := fun _ _ => rfl
theorem bn (a : BitVec 9) : Statement (.bn a) := fun _ _ => rfl
theorem bnn (a : BitVec 9) : Statement (.bnn a) := fun _ _ => rfl
theorem sll (rd : RegNum) : Statement (.sll rd) := fun _ _ => rfl
theorem srl (rd : RegNum) : Statement (.srl rd) := fun _ _ => rfl
theorem sra (rd : RegNum) : Statement (.sra rd) := fun _ _ => rfl
theorem rlc (rd : RegNum) : Statement (.rlc rd) := fun _ _ => rfl
theorem rrc (rd : RegNum) : Statement (.rrc rd) := fun _ _ => rfl
theorem not (rd : RegNum) : Statement (.not rd) := fun _ _ => rfl
theorem pop (rd : RegNum) : Statement (.pop rd) := fun _ _ => rfl
theorem jmpi (p : PairNum) : Statement (.jmpi p) := fun _ _ => rfl
theorem jci (p : PairNum) : Statement (.jci p) := fun _ _ => rfl
theorem jnci (p : PairNum) : Statement (.jnci p) := fun _ _ => rfl
theorem jzi (p : PairNum) : Statement (.jzi p) := fun _ _ => rfl
theorem jnzi (p : PairNum) : Statement (.jnzi p) := fun _ _ => rfl
theorem jni (p : PairNum) : Statement (.jni p) := fun _ _ => rfl
theorem jnni (p : PairNum) : Statement (.jnni p) := fun _ _ => rfl
theorem jmp (a : Word) : Statement (.jmp a) := fun _ _ => rfl
theorem jc (a : Word) : Statement (.jc a) := fun _ _ => rfl
theorem jnc (a : Word) : Statement (.jnc a) := fun _ _ => rfl
theorem jz (a : Word) : Statement (.jz a) := fun _ _ => rfl
theorem jnz (a : Word) : Statement (.jnz a) := fun _ _ => rfl
theorem jn (a : Word) : Statement (.jn a) := fun _ _ => rfl
theorem jnn (a : Word) : Statement (.jnn a) := fun _ _ => rfl
theorem call (a : Word) : Statement (.call a) := fun _ _ => rfl
theorem cc (a : Word) : Statement (.cc a) := fun _ _ => rfl
theorem cnc (a : Word) : Statement (.cnc a) := fun _ _ => rfl
theorem cz (a : Word) : Statement (.cz a) := fun _ _ => rfl
theorem cnz (a : Word) : Statement (.cnz a) := fun _ _ => rfl
theorem cn (a : Word) : Statement (.cn a) := fun _ _ => rfl
theorem cnn (a : Word) : Statement (.cnn a) := fun _ _ => rfl
theorem ret : Statement .ret := fun _ _ => rfl
theorem rc : Statement .rc := fun _ _ => rfl
theorem rnc : Statement .rnc := fun _ _ => rfl
theorem rz : Statement .rz := fun _ _ => rfl
theorem rnz : Statement .rnz := fun _ _ => rfl
theorem rn : Statement .rn := fun _ _ => rfl
theorem rnn : Statement .rnn := fun _ _ => rfl
theorem pus : Statement .pus := fun _ _ => rfl
theorem pos : Statement .pos := fun _ _ => rfl
theorem nop : Statement .nop := fun _ _ => rfl
theorem hlt : Statement .hlt := fun cfg h => by
  obtain ⟨w, hw⟩ := Option.isSome_iff_exists.1 (show cfg.hltWord.isSome = true from h)
  simp [encode, Instr.length, hw]
theorem ssr (m : BitVec 4) : Statement (.ssr m) := fun _ _ => rfl
theorem csr (m : BitVec 4) : Statement (.csr m) := fun _ _ => rfl
theorem mvp (pd ps : PairNum) : Statement (.mvp pd ps) := fun _ _ => rfl

end Sys2Proof.Laws.EncodedLength
end

