-- ==== Sys2Proof/Laws/Step.lean ====
section
/-! SUPPORT. What a step can do (60_exceptions.md R245, R255), and runs of several steps. -/

namespace Sys2Proof.Machine

/-- The outcome of a step from a state that is neither halted nor faulted. -/
theorem step_running {s : State} (hh : s.halted = false) (hf : s.fault = none) :
    step s =
      match s.fetchDecode with
      | .ok i _ => exec i s
      | .noWord => raise (.unmappedFetch s.pc)
      | .illegal w => unallocatedWord w s
      | .noSecondWord => raise (.unmappedFetch (s.pc + 1)) := by
  cases hd : s.fetchDecode <;> simp [step, hh, hf, hd]

/-- A halted or faulted state is returned unchanged (R255). -/
theorem step_stopped {s : State} (h : s.halted = true ∨ s.fault ≠ none) : step s = .next s := by
  have : (s.halted || s.fault.isSome) = true := by
    rcases h with h | h
    · simp [h]
    · cases hf : s.fault
      · exact absurd hf h
      · simp
  simp [step, this]

/-- A step answers a next state in two ways: the state was halted or faulted and is returned, or the instruction at the pc answers. -/
theorem step_next_cases {s t : State} (h : step s = .next t) :
    ((s.halted = true ∨ s.fault ≠ none) ∧ t = s) ∨
      (s.halted = false ∧ s.fault = none ∧ ∃ i rest, s.fetchDecode = .ok i rest ∧ exec i s = .next t) := by
  by_cases hs : s.halted = true ∨ s.fault ≠ none
  · left
    rw [step_stopped hs] at h
    exact ⟨hs, (Host.Outcome.next.inj h).symm⟩
  · right
    have hh : s.halted = false := by
      cases hb : s.halted
      · rfl
      · exact absurd (.inl hb) hs
    have hf : s.fault = none := by
      cases hb : s.fault
      · rfl
      · exact absurd (.inr (by simp [hb])) hs
    refine ⟨hh, hf, ?_⟩
    rw [step_running hh hf] at h
    split at h
    · exact ⟨_, _, ‹_›, h⟩
    · simp [raise] at h
    · unfold unallocatedWord at h
      split at h <;> simp [raise] at h
    · simp [raise] at h

/-- A step that decodes an instruction is that instruction (R255). -/
theorem step_of_decode {s : State} {i : Instr} {rest : List Word} (hh : s.halted = false) (hf : s.fault = none)
    (hd : s.fetchDecode = .ok i rest) : step s = exec i s := by
  simp [step_running hh hf, hd]

/-! ### Runs -/

theorem run_zero (s : State) : Sys2Proof.core.run 0 s = .next s := rfl

/-- A run whose first step answers `u` goes on from `u`. -/
theorem run_succ_of_next {k : Nat} {s u : State} (h : step s = .next u) :
    Sys2Proof.core.run (k + 1) s = Sys2Proof.core.run k u := by
  have h' : Sys2Proof.core.step s = .next u := h
  simp only [Host.Core.run, h']

/-- A run whose first step faults ends there. -/
theorem run_succ_of_fault {k : Nat} {s : State} {f : Fault} (h : step s = .fault f) :
    Sys2Proof.core.run (k + 1) s = .fault f := by
  have h' : Sys2Proof.core.step s = .fault f := h
  simp only [Host.Core.run, h']

end Sys2Proof.Machine
end

