-- ==== Sys2Proof/Tests/Slice0.lean ====
section
/-! SUPPORT. Tests: words written out from the encodings of the spec, ill-formed terms that the checks refuse, single steps from the examples and vectors of the spec, and for every statement with hypotheses a state and operands that meet them. -/

namespace Sys2Proof.Tests

open Sys2Proof Sys2Proof.Machine

/-! ### Helpers -/

/-- What `f` reads in the next state of an instruction; none where it stops. -/
def after {α : Type} (i : Instr) (s : State) (f : State → α) : Option α :=
  match exec i s with
  | .next t => some (f t)
  | .fault _ => none
  | .refused _ => none

/-- What `f` reads after a step; none where it stops. -/
def afterStep {α : Type} (s : State) (f : State → α) : Option α :=
  match step s with
  | .next t => some (f t)
  | .fault _ => none
  | .refused _ => none

/-- The fault an instruction stops with. -/
def faultOf (i : Instr) (s : State) : Option Fault :=
  match exec i s with
  | .next _ => none
  | .fault f => some f
  | .refused _ => none

/-- The fault a step stops with. -/
def stepFault (s : State) : Option Fault :=
  match step s with
  | .next _ => none
  | .fault f => some f
  | .refused _ => none

/-- The reset state with the pc at 0x0100. -/
def base : State := State.reset.setPc 0x0100

/-- A state with other parameters. -/
def withCfg (s : State) (cfg : Config) : State := { s with cfg := cfg }

/-- A state with a data byte stored. -/
def withByte (s : State) (a : Word) (v : Byte) : State := s.setDmem (Memory.write s.dmem a.toNat v)

/-- C, Z and N of a state. -/
def czn (s : State) : Bool × Bool × Bool := (s.flag .c, s.flag .z, s.flag .n)

/-! ### Decoding: one word of every constructor, bits as the patterns of 30_encoding.md R83 to R97 give them -/

/-- `dddd iiii iiii oooo`. -/
theorem test_decode_type_r_i : decode Config.default [0b0011_10100101_0001] = .ok (.ldi 3 0xA5) [] ∧
    decode Config.default [0b0011_00001111_0010] = .ok (.ani 3 0x0F) [] ∧
    decode Config.default [0b0011_10000000_0011] = .ok (.ori 3 0x80) [] ∧
    decode Config.default [0b0001_00100011_0100] = .ok (.xoi 1 0x23) [] ∧
    decode Config.default [0b0101_01010101_0101] = .ok (.adi 5 0x55) [] ∧
    decode Config.default [0b0100_11110000_0110] = .ok (.aci 4 0xF0) [] ∧
    decode Config.default [0b0011_00100000_0111] = .ok (.cpi 3 0x20) [] := by decide

/-- `rrrr iiii iiii 100o`. -/
theorem test_decode_type_r_io : decode Config.default [0b0010_00010000_1000] = .ok (.inp 2 0x10) [] ∧
    decode Config.default [0b0010_11111111_1001] = .ok (.out 2 0xFF) [] := by decide

/-- `dddd ssss ffff 1010`. -/
theorem test_decode_type_r_r : decode Config.default [0b0001_0010_0001_1010] = .ok (.mov 1 2) [] ∧
    decode Config.default [0b0010_0001_0010_1010] = .ok (.and 2 1) [] ∧
    decode Config.default [0b0011_1100_0011_1010] = .ok (.or 3 12) [] ∧
    decode Config.default [0b1100_0011_0100_1010] = .ok (.xor 12 3) [] ∧
    decode Config.default [0b0101_1010_0101_1010] = .ok (.add 5 10) [] ∧
    decode Config.default [0b1010_0101_0110_1010] = .ok (.adc 10 5) [] ∧
    decode Config.default [0b1111_0000_0111_1010] = .ok (.cmp 15 0) [] ∧
    decode Config.default [0b0000_1111_1000_1010] = .ok (.sub 0 15) [] ∧
    decode Config.default [0b0011_0100_1001_1010] = .ok (.sbb 3 4) [] := by decide

/-- `rrrr ppp0 ffff 1010`. -/
theorem test_decode_type_r_p : decode Config.default [0b0001_010_0_1100_1010] = .ok (.sri 1 2) [] ∧
    decode Config.default [0b0101_011_0_1101_1010] = .ok (.srd 5 3) [] ∧
    decode Config.default [0b1001_001_0_1110_1010] = .ok (.lri 9 1) [] ∧
    decode Config.default [0b0001_110_0_1111_1010] = .ok (.lrd 1 6) [] := by decide

/-- `rrrr pppk kkkk oooo` and `iiii pppi iiii 1101`. -/
theorem test_decode_type_r_p_k_and_p_i : decode Config.default [0b0001_010_00101_1011] = .ok (.str 1 2 5) [] ∧
    decode Config.default [0b0001_010_11111_1100] = .ok (.ldr 1 2 31) [] ∧
    decode Config.default [0b0011_010_00100_1101] = .ok (.api 2 100) [] ∧
    decode Config.default [0b1000_011_00001_1101] = .ok (.api 3 0x101) [] := by decide

/-- `ccca aaaa aaaa 1110`. -/
theorem test_decode_type_branch : decode Config.default [0b000_000000011_1110] = .ok (.br 3) [] ∧
    decode Config.default [0b001_100000000_1110] = .ok (.bc 0x100) [] ∧
    decode Config.default [0b010_111111111_1110] = .ok (.bnc 0x1FF) [] ∧
    decode Config.default [0b011_000000010_1110] = .ok (.bz 2) [] ∧
    decode Config.default [0b100_111111101_1110] = .ok (.bnz 0x1FD) [] ∧
    decode Config.default [0b101_000000001_1110] = .ok (.bn 1) [] ∧
    decode Config.default [0b110_011111111_1110] = .ok (.bnn 255) [] := by decide

/-- `dddd 0000 ffff 1111`, and POP, `dddd 1110 0010 0000`. -/
theorem test_decode_type_r : decode Config.default [0b0101_0000_1010_1111] = .ok (.sll 5) [] ∧
    decode Config.default [0b1010_0000_1011_1111] = .ok (.srl 10) [] ∧
    decode Config.default [0b0001_0000_1100_1111] = .ok (.sra 1) [] ∧
    decode Config.default [0b1000_0000_1101_1111] = .ok (.rlc 8) [] ∧
    decode Config.default [0b1111_0000_1110_1111] = .ok (.rrc 15) [] ∧
    decode Config.default [0b0011_0000_1111_1111] = .ok (.not 3) [] ∧
    decode Config.default [0b0101_1110_0010_0000] = .ok (.pop 5) [] := by decide

/-- `ccc0 ppp0 0011 1111`. -/
theorem test_decode_type_p : decode Config.default [0b0000_0110_0011_1111] = .ok (.jmpi 3) [] ∧
    decode Config.default [0b0010_1010_0011_1111] = .ok (.jci 5) [] ∧
    decode Config.default [0b0100_0010_0011_1111] = .ok (.jnci 1) [] ∧
    decode Config.default [0b0110_1110_0011_1111] = .ok (.jzi 7) [] ∧
    decode Config.default [0b1000_1000_0011_1111] = .ok (.jnzi 4) [] ∧
    decode Config.default [0b1010_0100_0011_1111] = .ok (.jni 2) [] ∧
    decode Config.default [0b1100_1100_0011_1111] = .ok (.jnni 6) [] := by decide

/-- `ccc0 1110 0010 1111` and `ccc0 1110 0001 1111`, then `a`. -/
theorem test_decode_type_a : decode Config.default [0b0000_1110_0010_1111, 0x0234] = .ok (.jmp 0x0234) [] ∧
    decode Config.default [0b0010_1110_0010_1111, 0x0234] = .ok (.jc 0x0234) [] ∧
    decode Config.default [0b0100_1110_0010_1111, 0x0234] = .ok (.jnc 0x0234) [] ∧
    decode Config.default [0b0110_1110_0010_1111, 0x0234] = .ok (.jz 0x0234) [] ∧
    decode Config.default [0b1000_1110_0010_1111, 0x0234] = .ok (.jnz 0x0234) [] ∧
    decode Config.default [0b1010_1110_0010_1111, 0x0234] = .ok (.jn 0x0234) [] ∧
    decode Config.default [0b1100_1110_0010_1111, 0x0234] = .ok (.jnn 0x0234) [] ∧
    decode Config.default [0b0000_1110_0001_1111, 0x0300] = .ok (.call 0x0300) [] ∧
    decode Config.default [0b0010_1110_0001_1111, 0x0300] = .ok (.cc 0x0300) [] ∧
    decode Config.default [0b0100_1110_0001_1111, 0x0300] = .ok (.cnc 0x0300) [] ∧
    decode Config.default [0b0110_1110_0001_1111, 0x0300] = .ok (.cz 0x0300) [] ∧
    decode Config.default [0b1000_1110_0001_1111, 0x0300] = .ok (.cnz 0x0300) [] ∧
    decode Config.default [0b1010_1110_0001_1111, 0x0300] = .ok (.cn 0x0300) [] ∧
    decode Config.default [0b1100_1110_0001_1111, 0x0300] = .ok (.cnn 0x0300) [] := by decide

/-- `ccc0 1110 0100 1111`, and PUS, POS, NOP. -/
theorem test_decode_type_no_args : decode Config.default [0b0000_1110_0100_1111] = .ok .ret [] ∧
    decode Config.default [0b0010_1110_0100_1111] = .ok .rc [] ∧
    decode Config.default [0b0100_1110_0100_1111] = .ok .rnc [] ∧
    decode Config.default [0b0110_1110_0100_1111] = .ok .rz [] ∧
    decode Config.default [0b1000_1110_0100_1111] = .ok .rnz [] ∧
    decode Config.default [0b1010_1110_0100_1111] = .ok .rn [] ∧
    decode Config.default [0b1100_1110_0100_1111] = .ok .rnn [] ∧
    decode Config.default [0b0000_1110_0101_1111] = .ok .pus [] ∧
    decode Config.default [0b0000_1110_0110_1111] = .ok .pos [] ∧
    decode Config.default [0b0000_0000_0000_0000] = .ok .nop [] := by decide

/-- `0000 mmmm ffff 1111` and `ddd0 sss0 1001 1111`. -/
theorem test_decode_type_m_and_p_p : decode Config.default [0b0000_0011_0111_1111] = .ok (.ssr 3) [] ∧
    decode Config.default [0b0000_0110_1000_1111] = .ok (.csr 6) [] ∧
    decode Config.default [0b001_0_010_0_1001_1111] = .ok (.mvp 1 2) [] := by decide

/-- HLT under an example value of HLT_WORD (vector VX23), and illegal without one. -/
theorem test_decode_hlt : decode { Config.default with hltWord := some 0x000F } [0x000F, 0x1234] = .ok .hlt [0x1234] ∧
    decode Config.default [0x000F] = .illegal 0x000F := by decide

/-- Words that 30_encoding.md R102 lists, primary opcodes 0000 and 1010. -/
theorem test_decode_illegal_0_and_10 : decode Config.default [0x0010] = .illegal 0x0010 ∧
    decode Config.default [0x000A] = .illegal 0x000A ∧
    decode Config.default [0x00AA] = .illegal 0x00AA ∧
    decode Config.default [0x01CA] = .illegal 0x01CA := by decide

/-- Words that R102 lists, primary opcodes 1110 and 1111. -/
theorem test_decode_illegal_14_and_15 : decode Config.default [0xE00E] = .illegal 0xE00E ∧
    decode Config.default [0xEE2F] = .illegal 0xEE2F ∧
    decode Config.default [0x1E4F] = .illegal 0x1E4F ∧
    decode Config.default [0x0D2F] = .illegal 0x0D2F ∧
    decode Config.default [0x2E5F] = .illegal 0x2E5F := by decide

/-- More words that R102 lists, primary opcode 1111. -/
theorem test_decode_illegal_15 : decode Config.default [0x107F] = .illegal 0x107F ∧
    decode Config.default [0x109F] = .illegal 0x109F ∧
    decode Config.default [0x019F] = .illegal 0x019F ∧
    decode Config.default [0xFFFF] = .illegal 0xFFFF ∧
    decode Config.default [0xBEEF] = .illegal 0xBEEF := by decide

/-- 60_exceptions.md R245 (2), (3), (5); vector VF2. -/
theorem test_decode_needs_second_word : decode Config.default [0x0E2F] = .noSecondWord ∧ decode Config.default [0xEE2F] = .illegal 0xEE2F ∧ decode Config.default [] = .noWord := by decide

/-- The entry of the host, on numbered bits. -/
theorem test_decode_table_word : decodeTableWord 32 0x02340E2F = some (.jmp 0x0234) ∧ decodeTableWord 16 0x0E2F = some (.jmp 0) ∧
    decodeTableWord 16 0x249F = some (.mvp 1 2) ∧ decodeTableWord 16 0xFFFF = none := by decide

/-- The next step runs the instruction placed where it fetches. -/
theorem test_withFetchWord_runs : afterStep (State.reset.withFetchWord 32 0x02340E2F) (fun t => t.pc) = some 0x0234 ∧
    afterStep (State.reset.withFetchWord 16 0x3A51) (fun t => (t.readReg 3, t.pc)) = some (0xA5, 1) := by decide

/-! ### Well-formedness: each check refuses an ill-formed term -/

theorem test_wellFormed_accepts : Config.default.wf = true ∧ (Instr.ldi 3 0xA5).wellFormed Config.default = true ∧ { Config.default with hltWord := some 0x000F }.wf = true := by decide

/-- 00_scope.md R8: the three bit indices are distinct. -/
theorem test_wellFormed_refuses_shared_flag_bit : Config.flagBitsDistinct { Config.default with sBitZ := 0 } = false ∧ Config.wf { Config.default with sBitN := 1 } = false := by decide

/-- 00_scope.md R8: STACK_DEPTH is at least 1. -/
theorem test_wellFormed_refuses_empty_stack_depth : Config.stackDepthPositive { Config.default with stackDepth := 0 } = false ∧ Config.wf { Config.default with stackDepth := 0 } = false := by decide

/-- 30_encoding.md R105: HLT_WORD collides with no instruction. -/
theorem test_wellFormed_refuses_taken_hlt_word : Config.hltWordFree { Config.default with hltWord := some 0x0000 } = false ∧ Config.wf { Config.default with hltWord := some 0x0E4F } = false := by decide

/-- 30_encoding.md R105: without HLT_WORD nothing encodes HLT. -/
theorem test_wellFormed_refuses_hlt_without_word : Instr.hlt.wellFormed Config.default = false ∧ Instr.hlt.wellFormed { Config.default with hltWord := some 0x000F } = true := by decide

/-! ### Single instructions: the examples of 40 to 49 and vectors of 95_test_vectors.md -/

/-- VI1. -/
theorem test_ldi : after (.ldi 3 0xA5) ((base).setStatus 0b0111) (fun t => (t.readReg 3, t.status, t.pc)) = some (0xA5, 0b0111, 0x0101) := by decide

/-- VI4: C is unchanged. -/
theorem test_ani : after (.ani 3 0x00) (((base).writeReg 3 0xFF).setStatus 0b0001) (fun t => (t.readReg 3, t.status)) = some (0x00, 0b0011) := by decide

/-- VI5. -/
theorem test_ori : after (.ori 3 0x80) ((base).writeReg 3 0x05) (fun t => (t.readReg 3, t.status)) = some (0x85, 0b0100) := by decide

/-- VI8. -/
theorem test_xoi : after (.xoi 3 0x85) (((base).writeReg 3 0x85).setStatus 0b0100) (fun t => (t.readReg 3, t.status)) = some (0x00, 0b0010) := by decide

/-- VI10. -/
theorem test_adi_wraps : after (.adi 3 0x01) ((base).writeReg 3 0xFF) (fun t => (t.readReg 3, t.status)) = some (0x00, 0b0011) := by decide

/-- VI16. -/
theorem test_aci : after (.aci 4 0xFF) (((base).writeReg 4 0xFF).setStatus 0b0001) (fun t => (t.readReg 4, t.status)) = some (0xFF, 0b0101) := by decide

/-- VI18. -/
theorem test_cpi : after (.cpi 3 0x20) ((base).writeReg 3 0x10) (fun t => (t.readReg 3, t.status)) = some (0x10, 0b0100) := by decide

/-- VI19. -/
theorem test_cpi_equal : after (.cpi 3 0x10) ((base).writeReg 3 0x10) (fun t => t.status) = some 0b0011 := by decide

/-- VO1, with the draw of the vector as the answer of the environment. -/
theorem test_inp : after (.inp 2 0x10) (withCfg base { Config.default with environment := { Environment.unconstrained with answer := .lit 0x5A } }) (fun t => (t.readReg 2, t.iolog)) = some (0x5A, [.input 0x10 0x5A]) := by decide

/-- 20_memory.md R55: the byte sent reaches the environment, and the answer depends on it and on the port. -/
theorem test_reactive_environment : after (.out 2 0x11) (withCfg (base.writeReg 2 0x33) { Config.default with environment := ⟨0, .op .add .state .port, .lit 7, .value⟩ })
      (fun t => after (.inp 3 0x11) t (fun u => (u.readReg 3, u.envState))) = some (some (0x44, 7)) := by decide

/-- VO3. -/
theorem test_out : after (.out 2 0xFF) (((base).writeReg 2 0x33).setStatus 0b0101) (fun t => (t.iolog, t.status, t.pc)) = some ([.output 0xFF 0x33], 0b0101, 0x0101) := by decide

/-- VR1. -/
theorem test_mov : after (.mov 1 2) (((base).writeReg 2 0x5A).setStatus 0b0111) (fun t => (t.readReg 1, t.readReg 2, t.status)) = some (0x5A, 0x5A, 0b0111) := by decide

/-- The example of R137. -/
theorem test_and : after (.and 1 2) (((base).writeReg 1 0xF0).writeReg 2 0x3C) (fun t => (t.readReg 1, czn t)) = some (0x30, false, false, false) := by decide

/-- The example of R138. -/
theorem test_or : after (.or 1 2) (((base).writeReg 1 0xF0).writeReg 2 0x3C) (fun t => (t.readReg 1, czn t)) = some (0xFC, false, false, true) := by decide

/-- A corner case of R139. -/
theorem test_xor_same : after (.xor 1 1) ((base).writeReg 1 0xF0) (fun t => (t.readReg 1, czn t)) = some (0x00, false, true, false) := by decide

/-- The example of R140. -/
theorem test_add : after (.add 1 2) (((base).writeReg 1 0xC8).writeReg 2 0x64) (fun t => (t.readReg 1, czn t)) = some (0x2C, true, false, false) := by decide

/-- The example of R141. -/
theorem test_adc : after (.adc 3 4) ((((base).writeReg 3 0x01).writeReg 4 0x02).setStatus 0b0001) (fun t => (t.readReg 3, czn t)) = some (0x04, false, false, false) := by decide

/-- The example of R142. -/
theorem test_cmp : after (.cmp 1 2) (((base).writeReg 1 0x20).writeReg 2 0x10) (fun t => (t.readReg 1, czn t)) = some (0x20, true, false, false) := by decide

/-- The example of R143. -/
theorem test_sub : after (.sub 1 2) (((base).writeReg 1 0x10).writeReg 2 0x20) (fun t => (t.readReg 1, czn t)) = some (0xF0, false, false, true) := by decide

/-- The example of R144. -/
theorem test_sbb : after (.sbb 3 4) (((base).writeReg 3 0x01).writeReg 4 0x00) (fun t => (t.readReg 3, czn t)) = some (0x00, true, true, false) := by decide

/-- A corner case of R144. -/
theorem test_sbb_borrow : after (.sbb 3 3) ((base).writeReg 3 0x37) (fun t => (t.readReg 3, czn t)) = some (0xFF, false, false, true) := by decide

/-- VP2: the old byte is stored. -/
theorem test_sri_own_pair : after (.sri 4 2) ((base).writePair 2 0x1234) (fun t => (t.dataByte 0x1234, t.readPair 2)) = some (0x34, 0x1235) := by decide

/-- VP5. -/
theorem test_srd_wraps : after (.srd 1 2) (((base).writePair 2 0x0000).writeReg 1 0xAB) (fun t => (t.dataByte 0x0000, t.readPair 2)) = some (0xAB, 0xFFFF) := by decide

/-- VP11. -/
theorem test_lri : after (.lri 15 0) (withByte ((base).writePair 0 0x00FF) 0x00FF 0x9A) (fun t => (t.readReg 15, t.readPair 0)) = some (0x9A, 0x0100) := by decide

/-- VP10. -/
theorem test_lri_own_pair : faultOf (.lri 5 2) ((base).writePair 2 0x1000) = some .registerOverlap := by decide

/-- VP12. -/
theorem test_lrd : after (.lrd 1 2) (withByte ((base).writePair 2 0x1000) 0x1000 0x77) (fun t => (t.readReg 1, t.readPair 2)) = some (0x77, 0x0FFF) := by decide

/-- VP17. -/
theorem test_str_wraps : after (.str 1 2 31) (((base).writePair 2 0xFFF0).writeReg 1 0xAB) (fun t => (t.dataByte 0x000F, t.readPair 2)) = some (0xAB, 0xFFF0) := by decide

/-- VP21. -/
theorem test_ldr_own_pair : after (.ldr 4 2 0) (withByte ((base).writePair 2 0x1000) 0x1000 0x77) (fun t => (t.readReg 4, t.readPair 2)) = some (0x77, 0x1077) := by decide

/-- VX10. -/
theorem test_ldr_signed : after (.ldr 1 0 31) (withCfg (withByte ((base).writePair 0 0x0200) 0x01FF 0xBB) { Config.default with kOffset := .signed }) (fun t => t.readReg 1) = some 0xBB := by decide

/-- VP23. -/
theorem test_api_negative : after (.api 2 0x1FF) ((base).writePair 2 0x1000) (fun t => (t.readPair 2, t.pc)) = some (0x0FFF, 0x0101) := by decide

/-- VX13. -/
theorem test_api_unsigned : after (.api 0 0x1FF) (withCfg ((base).writePair 0 0x0200) { Config.default with apiImm := .unsigned }) (fun t => t.readPair 0) = some 0x03FF := by decide

/-- The example of R166. -/
theorem test_br : after (.br 0x1FE) ((State.reset.setPc 0x0010)) (fun t => t.pc) = some 0x000E := by decide

/-- VX4. -/
theorem test_br_base : after (.br 3) (withCfg base { Config.default with brBase := 1 }) (fun t => t.pc) = some 0x0104 := by decide

/-- R167, taken and not taken. -/
theorem test_bc : after (.bc 4) (((State.reset.setPc 0x0010)).setStatus 0b0001) (fun t => t.pc) = some 0x0014 ∧ after (.bc 4) ((State.reset.setPc 0x0010)) (fun t => t.pc) = some 0x0011 := by decide

/-- R168, taken and not taken. -/
theorem test_bnc : after (.bnc 0x1FF) ((State.reset.setPc 0x0010)) (fun t => t.pc) = some 0x000F ∧ after (.bnc 0x1FF) (((State.reset.setPc 0x0010)).setStatus 0b0001) (fun t => t.pc) = some 0x0011 := by decide

/-- R169, taken and not taken. -/
theorem test_bz : after (.bz 2) (((State.reset.setPc 0x0010)).setStatus 0b0010) (fun t => t.pc) = some 0x0012 ∧ after (.bz 2) ((State.reset.setPc 0x0010)) (fun t => t.pc) = some 0x0011 := by decide

/-- R170, taken and not taken. -/
theorem test_bnz : after (.bnz 0x1FD) ((State.reset.setPc 0x0010)) (fun t => t.pc) = some 0x000D ∧ after (.bnz 0x1FD) (((State.reset.setPc 0x0010)).setStatus 0b0010) (fun t => t.pc) = some 0x0011 := by decide

/-- R171, taken and not taken. -/
theorem test_bn : after (.bn 4) (((State.reset.setPc 0x0010)).setStatus 0b0100) (fun t => t.pc) = some 0x0014 ∧ after (.bn 4) ((State.reset.setPc 0x0010)) (fun t => t.pc) = some 0x0011 := by decide

/-- R172, taken and not taken. -/
theorem test_bnn : after (.bnn 255) ((State.reset.setPc 0x0010)) (fun t => t.pc) = some 0x010F ∧ after (.bnn 255) (((State.reset.setPc 0x0010)).setStatus 0b0100) (fun t => t.pc) = some 0x0011 := by decide

/-- The example of R181. -/
theorem test_sll : after (.sll 5) ((base).writeReg 5 0xC1) (fun t => (t.readReg 5, czn t)) = some (0x82, true, false, true) := by decide

/-- The example of R182. -/
theorem test_srl : after (.srl 5) ((base).writeReg 5 0xC1) (fun t => (t.readReg 5, czn t)) = some (0x60, true, false, false) := by decide

/-- The example of R183. -/
theorem test_sra : after (.sra 5) ((base).writeReg 5 0xC1) (fun t => (t.readReg 5, czn t)) = some (0xE0, true, false, true) := by decide

/-- The example of R184. -/
theorem test_rlc : after (.rlc 5) (((base).writeReg 5 0xC1).setStatus 0b0001) (fun t => (t.readReg 5, t.flag .c)) = some (0x83, true) := by decide

/-- R185 with bit 0 clear. -/
theorem test_rrc : after (.rrc 5) (((base).writeReg 5 0xC0).setStatus 0b0001) (fun t => (t.readReg 5, t.flag .c)) = some (0xE0, false) := by decide

/-- The example of R186. -/
theorem test_not : after (.not 5) ((base).writeReg 5 0xC1) (fun t => (t.readReg 5, czn t)) = some (0x3E, false, false, false) := by decide

/-- The example of R187. -/
theorem test_pop : after (.pop 5) (base.setStk [.byte 0x9C]) (fun t => (t.readReg 5, t.stk)) = some (0x9C, []) := by decide

/-- R187, model faults. -/
theorem test_pop_kinds : faultOf (.pop 5) base = some .stackUnderflow ∧ faultOf (.pop 5) (base.setStk [.stat 5, .byte 1]) = some .stackKindMismatch := by decide

/-- The example of R191. -/
theorem test_jmpi : after (.jmpi 3) (((State.reset.setPc 0x0010)).writePair 3 0x0234) (fun t => t.pc) = some 0x0234 := by decide

/-- Taken and not taken. -/
theorem test_jci : after (.jci 3) ((((State.reset.setPc 0x0010)).writePair 3 0x0234).setStatus 0b0001) (fun t => t.pc) = some 0x0234 ∧ after (.jci 3) (((State.reset.setPc 0x0010)).writePair 3 0x0234) (fun t => t.pc) = some 0x0011 := by decide

/-- Taken and not taken. -/
theorem test_jnci : after (.jnci 3) ((((State.reset.setPc 0x0010)).writePair 3 0x0234).setStatus 0b0001) (fun t => t.pc) = some 0x0011 ∧ after (.jnci 3) (((State.reset.setPc 0x0010)).writePair 3 0x0234) (fun t => t.pc) = some 0x0234 := by decide

/-- Taken and not taken. -/
theorem test_jzi : after (.jzi 3) ((((State.reset.setPc 0x0010)).writePair 3 0x0234).setStatus 0b0010) (fun t => t.pc) = some 0x0234 ∧ after (.jzi 3) (((State.reset.setPc 0x0010)).writePair 3 0x0234) (fun t => t.pc) = some 0x0011 := by decide

/-- Taken and not taken. -/
theorem test_jnzi : after (.jnzi 3) ((((State.reset.setPc 0x0010)).writePair 3 0x0234).setStatus 0b0010) (fun t => t.pc) = some 0x0011 ∧ after (.jnzi 3) (((State.reset.setPc 0x0010)).writePair 3 0x0234) (fun t => t.pc) = some 0x0234 := by decide

/-- Taken and not taken. -/
theorem test_jni : after (.jni 3) ((((State.reset.setPc 0x0010)).writePair 3 0x0234).setStatus 0b0100) (fun t => t.pc) = some 0x0234 ∧ after (.jni 3) (((State.reset.setPc 0x0010)).writePair 3 0x0234) (fun t => t.pc) = some 0x0011 := by decide

/-- Taken and not taken. -/
theorem test_jnni : after (.jnni 3) ((((State.reset.setPc 0x0010)).writePair 3 0x0234).setStatus 0b0100) (fun t => t.pc) = some 0x0011 ∧ after (.jnni 3) (((State.reset.setPc 0x0010)).writePair 3 0x0234) (fun t => t.pc) = some 0x0234 := by decide

/-- The example of R201. -/
theorem test_jmp : after (.jmp 0x0234) (State.reset.setPc 0x0010) (fun t => t.pc) = some 0x0234 := by decide

/-- Taken and not taken. -/
theorem test_jc : after (.jc 0x0234) (((State.reset.setPc 0x0010)).setStatus 0b0001) (fun t => t.pc) = some 0x0234 ∧ after (.jc 0x0234) ((State.reset.setPc 0x0010)) (fun t => t.pc) = some 0x0012 := by decide

/-- Taken and not taken. -/
theorem test_jnc : after (.jnc 0x0234) (((State.reset.setPc 0x0010)).setStatus 0b0001) (fun t => t.pc) = some 0x0012 ∧ after (.jnc 0x0234) ((State.reset.setPc 0x0010)) (fun t => t.pc) = some 0x0234 := by decide

/-- Taken and not taken. -/
theorem test_jz : after (.jz 0x0234) (((State.reset.setPc 0x0010)).setStatus 0b0010) (fun t => t.pc) = some 0x0234 ∧ after (.jz 0x0234) ((State.reset.setPc 0x0010)) (fun t => t.pc) = some 0x0012 := by decide

/-- Taken and not taken. -/
theorem test_jnz : after (.jnz 0x0234) (((State.reset.setPc 0x0010)).setStatus 0b0010) (fun t => t.pc) = some 0x0012 ∧ after (.jnz 0x0234) ((State.reset.setPc 0x0010)) (fun t => t.pc) = some 0x0234 := by decide

/-- Taken and not taken. -/
theorem test_jn : after (.jn 0x0234) (((State.reset.setPc 0x0010)).setStatus 0b0100) (fun t => t.pc) = some 0x0234 ∧ after (.jn 0x0234) ((State.reset.setPc 0x0010)) (fun t => t.pc) = some 0x0012 := by decide

/-- Taken and not taken. -/
theorem test_jnn : after (.jnn 0x0234) (((State.reset.setPc 0x0010)).setStatus 0b0100) (fun t => t.pc) = some 0x0012 ∧ after (.jnn 0x0234) ((State.reset.setPc 0x0010)) (fun t => t.pc) = some 0x0234 := by decide

/-- The example of R209. -/
theorem test_call : after (.call 0x0300) ((State.reset.setPc 0x0010)) (fun t => (t.pc, t.stk)) = some (0x0300, [.ret 0x0012]) := by decide

/-- Taken and not taken. -/
theorem test_cc : after (.cc 0x0300) (((State.reset.setPc 0x0010)).setStatus 0b0001) (fun t => (t.pc, t.stk)) = some (0x0300, [.ret 0x0012]) ∧
    after (.cc 0x0300) ((State.reset.setPc 0x0010)) (fun t => (t.pc, t.stk)) = some (0x0012, []) := by decide

/-- Taken and not taken. -/
theorem test_cnc : after (.cnc 0x0300) (((State.reset.setPc 0x0010)).setStatus 0b0001) (fun t => (t.pc, t.stk)) = some (0x0012, []) ∧
    after (.cnc 0x0300) ((State.reset.setPc 0x0010)) (fun t => (t.pc, t.stk)) = some (0x0300, [.ret 0x0012]) := by decide

/-- Taken and not taken. -/
theorem test_cz : after (.cz 0x0300) (((State.reset.setPc 0x0010)).setStatus 0b0010) (fun t => (t.pc, t.stk)) = some (0x0300, [.ret 0x0012]) ∧
    after (.cz 0x0300) ((State.reset.setPc 0x0010)) (fun t => (t.pc, t.stk)) = some (0x0012, []) := by decide

/-- Taken and not taken. -/
theorem test_cnz : after (.cnz 0x0300) (((State.reset.setPc 0x0010)).setStatus 0b0010) (fun t => (t.pc, t.stk)) = some (0x0012, []) ∧
    after (.cnz 0x0300) ((State.reset.setPc 0x0010)) (fun t => (t.pc, t.stk)) = some (0x0300, [.ret 0x0012]) := by decide

/-- Taken and not taken. -/
theorem test_cn : after (.cn 0x0300) (((State.reset.setPc 0x0010)).setStatus 0b0100) (fun t => (t.pc, t.stk)) = some (0x0300, [.ret 0x0012]) ∧
    after (.cn 0x0300) ((State.reset.setPc 0x0010)) (fun t => (t.pc, t.stk)) = some (0x0012, []) := by decide

/-- Taken and not taken. -/
theorem test_cnn : after (.cnn 0x0300) (((State.reset.setPc 0x0010)).setStatus 0b0100) (fun t => (t.pc, t.stk)) = some (0x0012, []) ∧
    after (.cnn 0x0300) ((State.reset.setPc 0x0010)) (fun t => (t.pc, t.stk)) = some (0x0300, [.ret 0x0012]) := by decide

/-- 10_state.md R33 under the default depth of log entry 2. -/
theorem test_call_full : faultOf (.call 0x0300) (base.setStk [.ret 1, .ret 2, .stat 3, .ret 4]) = some .stackOverflow := by decide

/-- The example of R221. -/
theorem test_ret : after .ret ((State.reset.setPc 0x0305).setStk [.ret 0x0012]) (fun t => (t.pc, t.stk)) = some (0x0012, []) := by decide

/-- VF7. -/
theorem test_ret_kinds : faultOf .ret base = some .stackUnderflow ∧ faultOf .ret (base.setStk [.stat 5]) = some .stackKindMismatch := by decide

/-- Taken and not taken. -/
theorem test_rc : after .rc ((((State.reset.setPc 0x0305).setStk [.ret 0x0012])).setStatus 0b0001) (fun t => (t.pc, t.stk)) = some (0x0012, []) ∧
    after .rc ((State.reset.setPc 0x0305).setStk [.ret 0x0012]) (fun t => (t.pc, t.stk)) = some (0x0306, [.ret 0x0012]) := by decide

/-- Taken and not taken. -/
theorem test_rnc : after .rnc ((((State.reset.setPc 0x0305).setStk [.ret 0x0012])).setStatus 0b0001) (fun t => (t.pc, t.stk)) = some (0x0306, [.ret 0x0012]) ∧
    after .rnc ((State.reset.setPc 0x0305).setStk [.ret 0x0012]) (fun t => (t.pc, t.stk)) = some (0x0012, []) := by decide

/-- Taken and not taken. -/
theorem test_rz : after .rz ((((State.reset.setPc 0x0305).setStk [.ret 0x0012])).setStatus 0b0010) (fun t => (t.pc, t.stk)) = some (0x0012, []) ∧
    after .rz ((State.reset.setPc 0x0305).setStk [.ret 0x0012]) (fun t => (t.pc, t.stk)) = some (0x0306, [.ret 0x0012]) := by decide

/-- Taken and not taken. -/
theorem test_rnz : after .rnz ((((State.reset.setPc 0x0305).setStk [.ret 0x0012])).setStatus 0b0010) (fun t => (t.pc, t.stk)) = some (0x0306, [.ret 0x0012]) ∧
    after .rnz ((State.reset.setPc 0x0305).setStk [.ret 0x0012]) (fun t => (t.pc, t.stk)) = some (0x0012, []) := by decide

/-- Taken and not taken. -/
theorem test_rn : after .rn ((((State.reset.setPc 0x0305).setStk [.ret 0x0012])).setStatus 0b0100) (fun t => (t.pc, t.stk)) = some (0x0012, []) ∧
    after .rn ((State.reset.setPc 0x0305).setStk [.ret 0x0012]) (fun t => (t.pc, t.stk)) = some (0x0306, [.ret 0x0012]) := by decide

/-- Taken and not taken. -/
theorem test_rnn : after .rnn ((((State.reset.setPc 0x0305).setStk [.ret 0x0012])).setStatus 0b0100) (fun t => (t.pc, t.stk)) = some (0x0306, [.ret 0x0012]) ∧
    after .rnn ((State.reset.setPc 0x0305).setStk [.ret 0x0012]) (fun t => (t.pc, t.stk)) = some (0x0012, []) := by decide

/-- VN21; the top is the head of the list. -/
theorem test_pus : after (.pus) ((base.setStatus 0b1111).setStk [.ret 0x0012]) (fun t => (t.stk, t.status)) = some ([.stat 0b1111, .ret 0x0012], 0b1111) := by decide

/-- VN23. -/
theorem test_pos : after (.pos) ((base.setStatus 0b0010).setStk [.stat 0b0101]) (fun t => (t.status, t.stk)) = some (0b0101, []) := by decide

/-- VN29. -/
theorem test_nop : after (.nop) (State.reset.setPc 0xFFFF) (fun t => t.pc) = some 0x0000 := by decide

/-- VX23. -/
theorem test_hlt : afterStep ((withCfg base { Config.default with hltWord := some 0x000F }).load 0x0100 [0x000F]) (fun t => (t.halted, t.pc)) = some (true, 0x0101) := by decide

/-- VM1. -/
theorem test_ssr : after (.ssr 3) (base.setStatus 0b0100) (fun t => t.status) = some 0b0111 := by decide

/-- VM10. -/
theorem test_csr : after (.csr 14) (base.setStatus 0b0111) (fun t => t.status) = some 0b0110 := by decide

/-- VM13. -/
theorem test_mvp : after (.mvp 1 2) (((base).writeReg 4 0x34).writeReg 5 0x12) (fun t => (t.readReg 2, t.readReg 3)) = some (0x34, 0x12) := by decide

/-- VX3. -/
theorem test_mvp_even : after (.mvp 1 2) (withCfg (((base).writeReg 4 0x34).writeReg 5 0x12) { Config.default with pairHigh := .even }) (fun t => (t.readReg 2, t.readReg 3)) = some (0x34, 0x12) := by decide

/-- VX2. -/
theorem test_pair_even : after (.jmpi 3) (withCfg (((base).writeReg 6 0x34).writeReg 7 0x02) { Config.default with pairHigh := .even }) (fun t => t.pc) = some 0x3402 := by decide

/-- VX15. -/
theorem test_flag_layout : after (.adi 1 0x01) (withCfg ((base).writeReg 1 0xFF) { Config.default with sBitC := 3, sBitZ := 2, sBitN := 1 }) (fun t => t.status) = some 0b1100 := by decide

/-! ### Steps -/

/-- VF1 to VF3. -/
theorem test_step_order_of_checks : stepFault base = some (.unmappedFetch 0x0100) ∧ stepFault (base.load 0x0100 [0xEE2F]) = some (.illegalEncoding 0xEE2F 0x0100) ∧
    stepFault (base.load 0x0100 [0x6E2F]) = some (.unmappedFetch 0x0101) := by decide

/-- 30_encoding.md R103; log entry 20. -/
theorem test_step_refuses_nonstrict : (match step ((withCfg base { Config.default with strictDecode := false }).load 0x0100 [0xFFFF]) with | .refused r => some r | .next _ => none | .fault _ => none) = some (.nonStrictDecode 0xFFFF 0x0100) := by decide

/-- VX8. -/
theorem test_step_branch_field_before_condition : stepFault ((withCfg base { Config.default with brOffset := .refuseTopBit }).load 0x0100 [0x300E]) = some .ambiguousField := by decide

/-- VF8. -/
theorem test_step_overlap_before_data : faultOf (.lri 1 0) (withCfg ((base).writePair 0 0x8000) { Config.default with dmemMapped := [⟨0, 0x7FFF⟩] }) = some .registerOverlap := by decide

/-- VA3. -/
theorem test_step_second_word_wraps : afterStep ((State.reset.setPc 0xFFFF).load 0xFFFF [0x0E2F, 0x1234]) (fun t => t.pc) = some 0x1234 := by decide

/-- 70_reset_and_hazards.md R267; VF11. -/
theorem test_cost : cycles (.jc 0) (base.setStatus 1) = 2 ∧ cycles (.jc 0) base = 1 ∧ cycles .rz (base.setStatus 2) = 3 ∧ cycles .ret base = 3 ∧
    stepCost (base.load 0x0100 [0x0E4F]) = 0 := by decide

/-- A write of the unlisted byte removes the entry. -/
theorem test_canonical_memory : (withByte base 5 7).dmem = [(5, 7)] ∧ (withByte (withByte base 5 7) 5 0).dmem = [] ∧
    Memory.wf (withByte (withByte (withByte base 9 1) 5 7) 7 2).dmem = true := by decide

/-! ### Witnesses: for each statement with hypotheses, a state and operands that meet them all -/

theorem witness_DecodeOfEncode : Config.default.wf = true ∧ (Instr.mvp 7 1).wellFormed Config.default = true ∧
    Config.wf { Config.default with hltWord := some 0xFFFF } = true ∧ Instr.hlt.wellFormed { Config.default with hltWord := some 0xFFFF } = true := by decide

theorem witness_EncodeOfDecode : decode Config.default [0x0E1F, 0x0300, 0x0000] = .ok (.call 0x0300) [0x0000] := by decide

theorem witness_DecoderAgreesWithTheOpcodeTable : Config.default.hltWord ≠ some 0x249F ∧ (⟨"MVP", 0x009F, 0x11FF⟩ : TableRow) ∈ opcodeTable ∧ TableRow.covers ⟨"MVP", 0x009F, 0x11FF⟩ 0x249F = true := by decide

theorem witness_UnallocatedWordsAreThoseListed : Config.default.hltWord ≠ some 0xFFFF := by decide

theorem witness_InstructionsAreOneWordButTypeA : (Instr.jump .nn 0xFFFF).wellFormed Config.default = true ∧ Instr.nop.wellFormed Config.default = true ∧
    Config.default.wf = true ∧ (encode Config.default (.jump .nn 0xFFFF)).head? = (encode Config.default (.jump .nn 0)).head? := by decide

theorem witness_StepRunsTheDecodedInstruction : base.halted = false ∧ base.fault = none ∧ IMem.read (base.load 0x0100 [0x0E2F, 0x0234]).imem 0x0100 = some 0x0E2F ∧
    decode Config.default [0x0E2F, 0x0234] = .ok (.jmp 0x0234) [] := by decide

theorem witness_FetchAndDecodeFaultsInTheirOrder : base.halted = false ∧ base.fault = none ∧ IMem.read base.imem 0x0100 = none ∧
    IMem.read (base.load 0x0100 [0xFFFF]).imem 0x0100 = some 0xFFFF ∧ base.cfg.hltWord ≠ some 0xFFFF ∧ base.cfg.strictDecode = true ∧
    (0x6E2F#16 = Cond.selector .z ++ 0b0111000101111#13) ∧ IMem.read (base.load 0x0100 [0x6E2F]).imem 0x0101 = none := by decide

theorem witness_FetchAndDecodeFaults_listed : listedUnallocated 0xFFFF := by
  unfold listedUnallocated
  decide

theorem witness_FaultIsRecordedAndFinal : stepFault base = some (.unmappedFetch 0x0100) := by decide

theorem witness_NothingIsRefusedUnderStrictDecode : base.cfg.strictDecode = true := by decide

theorem witness_FaultsOfInstructionsAreThoseListed : faultOf (.pop 3) base = some .stackUnderflow ∧ faultOf .pos (base.setStk [.byte 5]) = some .stackKindMismatch ∧
    faultOf .rz ((base.setStatus 2).setStk [.byte 5]) = some .stackKindMismatch ∧ faultOf (.lrd 5 2) base = some .registerOverlap ∧
    faultOf (.cc 0x0300) ((base.setStatus 1).setStk [.ret 1, .ret 2, .ret 3, .ret 4]) = some .stackOverflow ∧
    faultOf (.bc 0x100) (withCfg base { Config.default with brOffset := .refuseTopBit }) = some .ambiguousField ∧
    faultOf (.ldr 1 2 16) (withCfg base { Config.default with kOffset := .refuseTopBit }) = some .ambiguousField ∧
    faultOf (.str 1 2 1) (withCfg (base.writePair 2 0x7FFF) { Config.default with dmemMapped := [⟨0, 0x7FFF⟩] }) = some (.unmappedData 0x8000) := by decide

theorem witness_StepKeepsTheInvariant : State.Inv ((base.setStatus 3).load 0x0100 [0x0E5F]) ∧ afterStep ((base.setStatus 3).load 0x0100 [0x0E5F]) (fun t => t.stk) = some [.stat 3] := by
  unfold State.Inv
  decide

theorem witness_RunsKeepProgramAndParameters : afterStep (base.load 0x0100 [0x0000]) (fun t => t.pc) = some 0x0101 := by decide

theorem witness_LogOnlyGrowsByWhatInAndOutDo : after (.out 2 5) base (fun t => t.iolog) = some [.output 5 0] ∧ after (.inp 2 5) base (fun t => t.iolog.length) = some 1 ∧
    after .nop base (fun t => t.iolog) = some [] := by decide

theorem witness_OnlyHltHalts : after .hlt base (fun t => t.halted) = some true ∧ after .nop base (fun t => t.halted) = some false ∧ base.setHalted.halted = true := by decide

theorem witness_RegistersWrittenAreThoseListed : (after (.mvp 1 2) base (fun t => t.pc)).isSome = true ∧ (0 : RegNum) ∉ registersWritten (.mvp 1 2) := by decide

theorem witness_FlagsWrittenAreThoseTabled : ¬ WritesStatusWhole (.add 1 2) ∧ (after (.add 1 2) base (fun t => t.pc)).isSome = true ∧ (∀ f ∈ flagsOpen (.add 1 2) base, base.cfg.flagBit f ≠ 3) := by
  refine ⟨?_, by decide, by decide⟩
  rintro (h | ⟨_, h⟩ | ⟨_, h⟩) <;> cases h

theorem witness_DataAndStackAreReachedOnlyByTheirInstructions : Memory.wf base.dmem = true ∧ base.offsetAddress 2 5 = .ok 5 ∧ (after (.str 1 2 5) base (fun t => t.pc)).isSome = true ∧
    (after (.sri 1 2) base (fun t => t.pc)).isSome = true ∧ ¬ IsStore .pus ∧ ¬ ReachesStack (.sri 1 2) ∧ (after .pus base (fun t => t.pc)).isSome = true := by
  refine ⟨by decide, by rfl, by decide, by decide, ?_, ?_, by decide⟩
  · rintro (⟨_, _, h⟩ | ⟨_, _, h⟩ | ⟨_, _, _, h⟩) <;> cases h
  · rintro (⟨k, _, h⟩ | ⟨k, h⟩ | h | h | ⟨_, h⟩)
    · cases k <;> cases h
    · cases k <;> cases h
    · cases h
    · cases h
    · cases h

theorem witness_OnlyTransfersLeaveTheSequence : (after .nop base (fun t => t.pc)) = some 0x0101 ∧ ¬ IsTransfer .nop := by
  refine ⟨by decide, ?_⟩
  rintro ⟨k, ⟨_, h⟩ | ⟨_, h⟩ | ⟨_, h⟩ | ⟨_, h⟩ | h⟩ <;> cases k <;> cases h

theorem witness_OnlyReadersDependOnTheStatusRegister : ¬ ReadsStatus (.add 1 2) ∧ base.cfg.wf = true ∧ base.cfg.flagModel = .conventional ∧ Flag.c ∈ flagsWritten (.add 1 2) ∧
    (after (.add 1 2) base (fun t => t.pc)).isSome = true ∧ (after (.add 1 2) (base.setStatus 15) (fun t => t.pc)).isSome = true := by
  refine ⟨?_, by decide, by decide, by decide, by decide, by decide⟩
  rintro (⟨_, _, h⟩ | ⟨_, _, h⟩ | ⟨_, _, h⟩ | ⟨_, h⟩ | ⟨_, h⟩ | h | h | ⟨_, h⟩ | ⟨_, h⟩)
  all_goals first | exact absurd rfl h | cases h

theorem witness_PopFaultsInEveryRunFromAnEmptyStack : base.stk = [] ∧ afterStep (base.load 0x0100 [0x0E5F]) (fun t => t.stk) = some [.stat 0] ∧ (base.load 0x0100 [0x0E5F]).NoByteItem := ⟨by decide, by decide, fun _ h => nomatch h⟩

theorem witness_LogicInstructionsWriteResultZeroAndNegative : base.cfg.wf = true ∧ base.cfg.flagModel = .conventional ∧ (base.withFlagModel .havoc).cfg.wf = true := by decide

theorem witness_AdditionsWriteSumAndCarry : base.cfg.wf = true ∧ base.cfg.flagModel = .conventional ∧ (base.withFlagModel .havoc).cfg.wf = true := by decide

theorem witness_SubtractionsWriteDifferenceAndNoBorrow : base.cfg.wf = true ∧ base.cfg.flagModel = .conventional ∧ (base.withFlagModel .havoc).cfg.wf = true := by decide

theorem witness_ComparesWriteFlagsAndNoRegister : base.cfg.wf = true ∧ base.cfg.flagModel = .conventional ∧ (base.withFlagModel .havoc).cfg.wf = true := by decide

theorem witness_ShiftsWriteResultAndTheBitShiftedOut : base.cfg.wf = true ∧ base.cfg.flagModel = .conventional ∧ (base.withFlagModel .havoc).cfg.wf = true := by decide

theorem witness_RotatesTurnTheNineBitsOfCarryAndRegister : base.cfg.wf = true ∧ base.cfg.flagModel = .conventional ∧ (base.withFlagModel .havoc).cfg.wf = true := by decide

theorem witness_InWritesTheAnswerAndLogsIt : base.cfg.environment = .unconstrained ∧ base.iolog = [] ∧ (after (.inp 2 5) base (fun t => t.pc)).isSome = true ∧
    (after (.out 2 5) base (fun t => t.pc)).isSome = true := by decide

theorem witness_PairsAreTwoRegisters : base.cfg.pairHigh = .odd ∧ (withCfg base { Config.default with pairHigh := .even }).cfg.pairHigh = .even ∧ (7 : PairNum) ≠ 0 := by decide

theorem witness_PostModifyingStoresComplete : Memory.wf base.dmem = true ∧ dataMapped base.cfg (base.readPair 2) = true ∧ dataMapped (base.writePair 2 0xFFFF).cfg ((base.writePair 2 0xFFFF).readPair 2) = true := by decide

theorem witness_PostModifyingLoadsComplete : (1 : RegNum) ∉ pairRegs 2 ∧ (6 : RegNum) ∉ pairRegs 2 ∧ dataMapped base.cfg (base.readPair 2) = true := by decide

theorem witness_StoreWithOffsetCompletes : Memory.wf base.dmem = true ∧ widen base.cfg.kOffset (31 : BitVec 5) = .ok 31 ∧ dataMapped base.cfg (base.readPair 2 + 31) = true := ⟨by decide, rfl, by decide⟩

theorem witness_LoadWithOffsetCompletes : widen base.cfg.kOffset (0 : BitVec 5) = .ok 0 ∧ dataMapped base.cfg (base.readPair 2 + 0) = true := ⟨rfl, by decide⟩

theorem witness_AddPairImmediateCompletes : widen base.cfg.apiImm (0x100 : BitVec 9) = .ok 0xFF00 := rfl

theorem witness_OffsetsAndImmediatesAreWidenedAsTheParameterSays : (0x0FF : BitVec 9).toNat < 2 ^ (9 - 1) ∧ 2 ^ (9 - 1) ≤ (0x100 : BitVec 9).toNat ∧ (15 : BitVec 5).toNat < 2 ^ (5 - 1) ∧ 2 ^ (5 - 1) ≤ (16 : BitVec 5).toNat := by decide

theorem witness_DataFaultsLeaveNoEffect : dataMapped { Config.default with dmemMapped := [⟨0, 0x7FFF⟩] } 0x8000 = false ∧ dataMapped { Config.default with dmemMapped := [⟨0, 0x7FFF⟩] } 0x7FFF = true ∧
    (withCfg (base.writePair 2 0x8000) { Config.default with dmemMapped := [⟨0, 0x7FFF⟩] }).readPair 2 = 0x8000 ∧
    (withCfg (base.writePair 2 0x7FFF) { Config.default with dmemMapped := [⟨0, 0x7FFF⟩] }).offsetAddress 2 1 = .ok 0x8000 ∧
    (1 : RegNum) ∉ pairRegs 2 ∧ (4 : RegNum) ∈ pairRegs 2 ∧ (5 : RegNum) ∈ pairRegs 2 := ⟨by decide, by decide, by decide, rfl, by decide, by decide, by decide⟩

theorem witness_AmbiguousFieldsFault : (256 ≤ (0x100 : BitVec 9).toNat) ∧ (16 ≤ (16 : BitVec 5).toNat) ∧
    ({ Config.default with brOffset := .refuseTopBit, kOffset := .refuseTopBit, apiImm := .refuseTopBit } : Config).brOffset = .refuseTopBit := by decide

theorem witness_LoadReadsTheLatestStore : Memory.wf base.dmem = true ∧ (after (.str 1 2 0) base (fun t => t.pc)).isSome = true ∧ (1 : RegNum) ∉ pairRegs 2 ∧
    (after (.sri 1 2) base (fun t => t.pc)).isSome = true ∧ dataMapped base.cfg (base.readPair 2 + 1) = true := by decide

theorem witness_RelativeBranchesSetThePc : widen base.cfg.brOffset (0x1FF : BitVec 9) = .ok 0xFFFF := rfl

theorem witness_JmpSetsThePcToItsSecondWord : (base.load 0x0100 [0x0E2F, 0x0234]).halted = false ∧ (base.load 0x0100 [0x0E2F, 0x0234]).fault = none ∧
    IMem.read (base.load 0x0100 [0x0E2F, 0x0234]).imem 0x0100 = some 0b0000_1110_0010_1111 ∧ base.cfg.hltWord ≠ some 0b0000_1110_0010_1111 ∧
    IMem.read (base.load 0x0100 [0x0E2F, 0x0234]).imem 0x0101 = some 0x0234 ∧ IMem.read (base.load 0x0100 [0x0E2F]).imem 0x0101 = none := by decide

theorem witness_CallsPushTheReturnAddressAndJump : base.stk.length < base.cfg.stackDepth ∧ base.flag .c = false ∧
    base.cfg.stackDepth ≤ (base.setStk [.ret 1, .ret 2, .ret 3, .ret 4]).stk.length ∧ (base.setStatus 1).flag .c = true := by decide

theorem witness_ReturnsPopTheReturnAddress : (base.setStk [.ret 5]).stk = .ret 5 :: [] ∧ base.stk = [] ∧ base.flag .n = false ∧ (base.setStatus 4).flag .n = true ∧
    (base.setStk [.stat 5]).stk = .stat 5 :: [] ∧ ∀ a, StackItem.stat 5 ≠ .ret a := ⟨rfl, rfl, by decide, by decide, rfl, fun _ h => by cases h⟩

theorem witness_ReturnUndoesCall : (base.setStatus 1).cond .c = true ∧ (after (.callTo .c 0x0300) (base.setStatus 1) (fun t => (t.pc, t.cond .nz))) = some (0x0300, true) := by decide

theorem witness_PopTakesAByteItem : (base.setStk [.byte 5]).stk = .byte 5 :: [] ∧ base.stk = [] ∧ (base.setStk [.ret 5]).stk = .ret 5 :: [] ∧ ∀ b, StackItem.ret 5 ≠ .byte b := ⟨rfl, rfl, rfl, fun _ h => by cases h⟩

theorem witness_PusAndPosSaveAndRestoreTheStatusRegister : base.stk.length < base.cfg.stackDepth ∧ base.cfg.stackDepth ≤ (base.setStk [.ret 1, .ret 2, .ret 3, .ret 4]).stk.length ∧
    (base.setStk [.stat 5]).stk = .stat 5 :: [] ∧ base.stk = [] ∧ (base.setStk [.byte 5]).stk = .byte 5 :: [] ∧
    (∀ v, StackItem.byte 5 ≠ .stat v) ∧ (after .nop base (fun t => t.pc)).isSome = true ∧ (∀ f, base.cfg.flagBit f ≠ 3) := ⟨by decide, by decide, rfl, rfl, rfl, fun _ h => (by cases h), by decide, fun f => by cases f <;> decide⟩

theorem witness_HltHaltsAndEndsTheRun : (withCfg base { Config.default with hltWord := some 0xFFFF }).cfg.hltWord = some 0xFFFF ∧ base.halted = false ∧ base.fault = none ∧
    IMem.read (base.load 0x0100 [0xFFFF]).imem 0x0100 = some 0xFFFF := by decide

theorem witness_TwoByteArithmeticIsPairArithmetic : base.cfg.wf = true ∧ base.cfg.flagModel = .conventional ∧
    after (.add (lowReg base.cfg 1) (lowReg base.cfg 2)) base (fun t => after (.adc (highReg base.cfg 1) (highReg base.cfg 2)) t (fun u => u.pc)) = some (some 0x0102) ∧
    after (.sub (lowReg base.cfg 1) (lowReg base.cfg 2)) base (fun t => after (.sbb (highReg base.cfg 1) (highReg base.cfg 2)) t (fun u => u.pc)) = some (some 0x0102) := by decide

end Sys2Proof.Tests
end

/-! PROOFS. The condition table of 00_scope.md R14 and the decoder's use of it: the tests on the flags, the selector field of a word, and the five places of the decoding procedure (30_encoding.md R106) that look a selector up. -/

namespace Sys2Proof

open Sys2Proof.Machine

/-! ### Conditions and flags -/

theorem cond_always (s : State) : s.cond .always = true := rfl
theorem cond_c (s : State) : s.cond .c = (s.flag .c == true) := by simp [State.cond]
theorem cond_nc (s : State) : s.cond .nc = (s.flag .c == false) := by simp [State.cond]
theorem cond_z (s : State) : s.cond .z = (s.flag .z == true) := by simp [State.cond]
theorem cond_nz (s : State) : s.cond .nz = (s.flag .z == false) := by simp [State.cond]
theorem cond_n (s : State) : s.cond .n = (s.flag .n == true) := by simp [State.cond]
theorem cond_nn (s : State) : s.cond .nn = (s.flag .n == false) := by simp [State.cond]

/-! ### The fields of a word with a selector -/

/-- A word of Type Branch (R89). -/
def branchWord (ccc : BitVec 3) (a : BitVec 9) : Word := ccc ++ a ++ 0b1110#4

theorem branchWord_opcode (ccc : BitVec 3) (a : BitVec 9) : (branchWord ccc a).extractLsb' 0 4 = 0xE :=
  BitVec.extractLsb'_append_eq_right

theorem branchWord_offset (ccc : BitVec 3) (a : BitVec 9) : (branchWord ccc a).extractLsb' 4 9 = a :=
  (BitVec.extractLsb'_append_eq_of_le (by omega)).trans BitVec.extractLsb'_append_eq_right

theorem branchWord_selector (ccc : BitVec 3) (a : BitVec 9) : (branchWord ccc a).extractLsb' 13 3 = ccc :=
  (BitVec.extractLsb'_append_eq_of_le (by omega)).trans BitVec.extractLsb'_append_eq_left

theorem encodeBranch_eq_branchWord (cond : Cond) (a : BitVec 9) : encodeBranch cond a = branchWord cond.selector a := rfl

/-- A word of Type P (R92). -/
def indirectWord (ccc : BitVec 3) (p : PairNum) : Word := ccc ++ 0b0#1 ++ p ++ 0b000111111#9

/-- Bits 8 to 0 of a word of Type P are fixed. -/
theorem indirectWord_low (ccc : BitVec 3) (p : PairNum) {start len : Nat} (h : start + len ≤ 9) :
    (indirectWord ccc p).extractLsb' start len = BitVec.extractLsb' start len 0b000111111#9 :=
  BitVec.extractLsb'_append_eq_of_add_le h

theorem indirectWord_opcode (ccc : BitVec 3) (p : PairNum) : (indirectWord ccc p).extractLsb' 0 4 = 0xF :=
  indirectWord_low ccc p (by omega)

theorem indirectWord_function (ccc : BitVec 3) (p : PairNum) : (indirectWord ccc p).extractLsb' 4 4 = 0x3 :=
  indirectWord_low ccc p (by omega)

theorem indirectWord_bit8 (ccc : BitVec 3) (p : PairNum) : (indirectWord ccc p).extractLsb' 8 1 = 0 :=
  indirectWord_low ccc p (by omega)

theorem indirectWord_pair (ccc : BitVec 3) (p : PairNum) : (indirectWord ccc p).extractLsb' 9 3 = p :=
  (BitVec.extractLsb'_append_eq_of_le (by omega)).trans BitVec.extractLsb'_append_eq_right

/-- Bits 15 to 12 of a word of Type P are the selector over a zero. -/
theorem indirectWord_high (ccc : BitVec 3) (p : PairNum) {start len : Nat} (h : 12 ≤ start) :
    (indirectWord ccc p).extractLsb' start len = BitVec.extractLsb' (start - 12) len (ccc ++ 0b0#1) := by
  unfold indirectWord
  rw [BitVec.extractLsb'_append_eq_of_le (by omega), BitVec.extractLsb'_append_eq_of_le (by omega), Nat.sub_sub]

theorem indirectWord_bit12 (ccc : BitVec 3) (p : PairNum) : (indirectWord ccc p).extractLsb' 12 1 = 0 :=
  (indirectWord_high ccc p (by omega)).trans BitVec.extractLsb'_append_eq_right

theorem indirectWord_selector (ccc : BitVec 3) (p : PairNum) : (indirectWord ccc p).extractLsb' 13 3 = ccc :=
  (indirectWord_high ccc p (by omega)).trans BitVec.extractLsb'_append_eq_left

theorem encodeP_eq_indirectWord (cond : Cond) (p : PairNum) : encodeP cond p = indirectWord cond.selector p := rfl

/-- The selector of a word is what stands over bits 12 to 0. -/
theorem extract_selector (ccc : BitVec 3) (tail : BitVec 13) : BitVec.extractLsb' 13 3 (ccc ++ tail) = ccc :=
  BitVec.extractLsb'_append_eq_left

theorem extract_tail (ccc : BitVec 3) (tail : BitVec 13) {start len : Nat} (h : start + len ≤ 13) :
    BitVec.extractLsb' start len (ccc ++ tail) = tail.extractLsb' start len :=
  BitVec.extractLsb'_append_eq_of_add_le h

/-! ### The decoder at a selector

Each form answers by the condition of its selector, and refuses the word where the selector names none. -/

/-- The answer `build` gives for the condition that `ccc` names. -/
def selected (ccc : BitVec 3) (build : Cond → FirstWord) : FirstWord :=
  match Cond.ofSelector ccc with
  | some cond => build cond
  | none => .unallocated

theorem decodeBranch_eq_selected (w : Word) :
    decodeBranch w = selected (w.extractLsb' 13 3) fun cond => .one (.branch cond (w.extractLsb' 4 9)) := rfl

theorem decodeIndirect_eq_selected {w : Word} (h12 : w.extractLsb' 12 1 = 0) (h8 : w.extractLsb' 8 1 = 0) :
    decodeIndirect w = selected (w.extractLsb' 13 3) fun cond => .one (.indirect cond (w.extractLsb' 9 3)) :=
  if_pos ⟨h12, h8⟩

theorem decodeConditional_eq_selected {w : Word} (h : w.extractLsb' 8 5 = 0b01110) (build : Cond → FirstWord) :
    decodeConditional w build = selected (w.extractLsb' 13 3) build :=
  if_pos h

/-! ### The way to each form (R106) -/

theorem decodeFirst_group14 {w : Word} (h : w.extractLsb' 0 4 = 0xE) : decodeFirst w = decodeBranch w := by
  simp [decodeFirst, h]

theorem decodeFirst_group15 {w : Word} (h : w.extractLsb' 0 4 = 0xF) : decodeFirst w = decodeGroup15 w := by
  simp [decodeFirst, h]

theorem decodeGroup15_call {w : Word} (h : w.extractLsb' 4 4 = 0x1) : decodeGroup15 w = decodeConditional w .call := by
  simp [decodeGroup15, h]

theorem decodeGroup15_jump {w : Word} (h : w.extractLsb' 4 4 = 0x2) : decodeGroup15 w = decodeConditional w .jump := by
  simp [decodeGroup15, h]

theorem decodeGroup15_indirect {w : Word} (h : w.extractLsb' 4 4 = 0x3) : decodeGroup15 w = decodeIndirect w := by
  simp [decodeGroup15, h]

theorem decodeGroup15_return {w : Word} (h : w.extractLsb' 4 4 = 0x4) :
    decodeGroup15 w = decodeConditional w fun cond => .one (.returnOn cond) := by
  simp [decodeGroup15, h]

/-! ### The words of each family -/

theorem decodeFirst_branchWord (ccc : BitVec 3) (a : BitVec 9) :
    decodeFirst (branchWord ccc a) = selected ccc fun cond => .one (.branch cond a) := by
  rw [decodeFirst_group14 (branchWord_opcode ccc a), decodeBranch_eq_selected, branchWord_selector, branchWord_offset]

theorem decodeFirst_indirectWord (ccc : BitVec 3) (p : PairNum) :
    decodeFirst (indirectWord ccc p) = selected ccc fun cond => .one (.indirect cond p) := by
  rw [decodeFirst_group15 (indirectWord_opcode ccc p), decodeGroup15_indirect (indirectWord_function ccc p),
    decodeIndirect_eq_selected (indirectWord_bit12 ccc p) (indirectWord_bit8 ccc p), indirectWord_selector, indirectWord_pair]

/-- A word of group 15 with the fixed bits 0 1110 of R99, whose function names a conditional form. -/
theorem decodeFirst_conditionalWord (ccc : BitVec 3) {tail : BitVec 13} {build : Cond → FirstWord}
    (hop : tail.extractLsb' 0 4 = 0xF) (hfix : tail.extractLsb' 8 5 = 0b01110)
    (hform : decodeGroup15 (ccc ++ tail) = decodeConditional (ccc ++ tail) build) :
    decodeFirst (ccc ++ tail) = selected ccc build := by
  have hop' : BitVec.extractLsb' 0 4 (ccc ++ tail) = 0xF := (extract_tail ccc tail (by omega)).trans hop
  have hfix' : BitVec.extractLsb' 8 5 (ccc ++ tail) = 0b01110 := (extract_tail ccc tail (by omega)).trans hfix
  rw [decodeFirst_group15 hop', hform, decodeConditional_eq_selected hfix', extract_selector]

theorem decodeFirst_jumpWord (ccc : BitVec 3) : decodeFirst (ccc ++ 0b0111000101111#13) = selected ccc .jump :=
  decodeFirst_conditionalWord ccc rfl rfl (decodeGroup15_jump (extract_tail ccc _ (by omega)))

theorem decodeFirst_callWord (ccc : BitVec 3) : decodeFirst (ccc ++ 0b0111000011111#13) = selected ccc .call :=
  decodeFirst_conditionalWord ccc rfl rfl (decodeGroup15_call (extract_tail ccc _ (by omega)))

theorem decodeFirst_returnWord (ccc : BitVec 3) :
    decodeFirst (ccc ++ 0b0111001001111#13) = selected ccc fun cond => .one (.returnOn cond) :=
  decodeFirst_conditionalWord ccc rfl rfl (decodeGroup15_return (extract_tail ccc _ (by omega)))

/-! ### The obligation -/

/-- Settles O7: the tests are those of `State.cond`, and each family looks its selector up in the one table. -/
theorem conditionSelectorsAsTabled : Obligations.ConditionSelectorsAsTabled := by
  unfold Obligations.ConditionSelectorsAsTabled
  refine ⟨fun s => ?table, decodeFirst_branchWord, decodeFirst_indirectWord, decodeFirst_jumpWord, decodeFirst_callWord,
    decodeFirst_returnWord⟩
  case table =>
    exact ⟨congrArg some (cond_always s), congrArg some (cond_c s), congrArg some (cond_nc s), congrArg some (cond_z s),
      congrArg some (cond_nz s), congrArg some (cond_n s), congrArg some (cond_nn s), rfl⟩

end Sys2Proof

/-! PROOFS. The first word of an instruction (30_encoding.md R80): the fields of each format, what the decoder reads from the word, the row of the table that covers it, and the number of words. -/

namespace Sys2Proof

/-! ### The fields of a word of each format (R83 to R97) -/

@[simp] theorem encodeRI_opcode (r : RegNum) (i : Byte) (op : BitVec 4) : (encodeRI r i op).extractLsb' 0 4 = op :=
  BitVec.extractLsb'_append_eq_right

@[simp] theorem encodeRI_imm (r : RegNum) (i : Byte) (op : BitVec 4) : (encodeRI r i op).extractLsb' 4 8 = i :=
  (BitVec.extractLsb'_append_eq_of_le (by omega)).trans BitVec.extractLsb'_append_eq_right

@[simp] theorem encodeRI_reg (r : RegNum) (i : Byte) (op : BitVec 4) : (encodeRI r i op).extractLsb' 12 4 = r :=
  (BitVec.extractLsb'_append_eq_of_le (by omega)).trans BitVec.extractLsb'_append_eq_left

/-- A word of four fields of four bits: what the formats R-R, R and M have in common (R85, R90, R96). -/
def nibbles (a b c d : BitVec 4) : Word := a ++ b ++ c ++ d

@[simp] theorem nibbles_opcode (a b c d : BitVec 4) : (nibbles a b c d).extractLsb' 0 4 = d :=
  BitVec.extractLsb'_append_eq_right

@[simp] theorem nibbles_function (a b c d : BitVec 4) : (nibbles a b c d).extractLsb' 4 4 = c :=
  (BitVec.extractLsb'_append_eq_of_le (by omega)).trans BitVec.extractLsb'_append_eq_right

/-- The two high fields stand over the two low ones. -/
theorem nibbles_high (a b c d : BitVec 4) {start len : Nat} (h : 8 ≤ start) :
    (nibbles a b c d).extractLsb' start len = BitVec.extractLsb' (start - 8) len (a ++ b) := by
  unfold nibbles
  rw [BitVec.extractLsb'_append_eq_of_le (by omega), BitVec.extractLsb'_append_eq_of_le (by omega), Nat.sub_sub]

@[simp] theorem nibbles_second (a b c d : BitVec 4) : (nibbles a b c d).extractLsb' 8 4 = b :=
  (nibbles_high a b c d (by omega)).trans BitVec.extractLsb'_append_eq_right

@[simp] theorem nibbles_first (a b c d : BitVec 4) : (nibbles a b c d).extractLsb' 12 4 = a :=
  (nibbles_high a b c d (by omega)).trans BitVec.extractLsb'_append_eq_left

theorem encodeRR_eq_nibbles (rd rs : RegNum) (fn : BitVec 4) : encodeRR rd rs fn = nibbles rd rs fn 0b1010#4 := rfl
theorem encodeR_eq_nibbles (rd : RegNum) (fn : BitVec 4) : encodeR rd fn = nibbles rd 0b0000#4 fn 0b1111#4 := rfl
theorem encodeM_eq_nibbles (m fn : BitVec 4) : encodeM m fn = nibbles 0b0000#4 m fn 0b1111#4 := rfl

@[simp] theorem encodeRP_opcode (r : RegNum) (p : PairNum) (fn : BitVec 4) : (encodeRP r p fn).extractLsb' 0 4 = 0b1010#4 :=
  BitVec.extractLsb'_append_eq_right

@[simp] theorem encodeRP_function (r : RegNum) (p : PairNum) (fn : BitVec 4) : (encodeRP r p fn).extractLsb' 4 4 = fn :=
  (BitVec.extractLsb'_append_eq_of_le (by omega)).trans BitVec.extractLsb'_append_eq_right

/-- Bits 15 to 8 of a word of Type R-P are the register, the pair and a zero. -/
theorem encodeRP_high (r : RegNum) (p : PairNum) (fn : BitVec 4) {start len : Nat} (h : 8 ≤ start) :
    (encodeRP r p fn).extractLsb' start len = BitVec.extractLsb' (start - 8) len (r ++ p ++ 0b0#1) := by
  unfold encodeRP
  rw [BitVec.extractLsb'_append_eq_of_le (by omega), BitVec.extractLsb'_append_eq_of_le (by omega), Nat.sub_sub]

@[simp] theorem encodeRP_bit8 (r : RegNum) (p : PairNum) (fn : BitVec 4) : (encodeRP r p fn).extractLsb' 8 1 = 0b0#1 :=
  (encodeRP_high r p fn (by omega)).trans BitVec.extractLsb'_append_eq_right

@[simp] theorem encodeRP_pair (r : RegNum) (p : PairNum) (fn : BitVec 4) : (encodeRP r p fn).extractLsb' 9 3 = p :=
  (encodeRP_high r p fn (by omega)).trans <|
    (BitVec.extractLsb'_append_eq_of_le (by omega)).trans BitVec.extractLsb'_append_eq_right

@[simp] theorem encodeRP_reg (r : RegNum) (p : PairNum) (fn : BitVec 4) : (encodeRP r p fn).extractLsb' 12 4 = r :=
  (encodeRP_high r p fn (by omega)).trans <|
    (BitVec.extractLsb'_append_eq_of_le (by omega)).trans BitVec.extractLsb'_append_eq_left

@[simp] theorem encodeRPK_opcode (r : RegNum) (p : PairNum) (k : BitVec 5) (op : BitVec 4) :
    (encodeRPK r p k op).extractLsb' 0 4 = op :=
  BitVec.extractLsb'_append_eq_right

@[simp] theorem encodeRPK_offset (r : RegNum) (p : PairNum) (k : BitVec 5) (op : BitVec 4) :
    (encodeRPK r p k op).extractLsb' 4 5 = k :=
  (BitVec.extractLsb'_append_eq_of_le (by omega)).trans BitVec.extractLsb'_append_eq_right

/-- Bits 15 to 9 of a word of Type R-P-K are the register and the pair. -/
theorem encodeRPK_high (r : RegNum) (p : PairNum) (k : BitVec 5) (op : BitVec 4) {start len : Nat} (h : 9 ≤ start) :
    (encodeRPK r p k op).extractLsb' start len = BitVec.extractLsb' (start - 9) len (r ++ p) := by
  unfold encodeRPK
  rw [BitVec.extractLsb'_append_eq_of_le (by omega), BitVec.extractLsb'_append_eq_of_le (by omega), Nat.sub_sub]

@[simp] theorem encodeRPK_pair (r : RegNum) (p : PairNum) (k : BitVec 5) (op : BitVec 4) :
    (encodeRPK r p k op).extractLsb' 9 3 = p :=
  (encodeRPK_high r p k op (by omega)).trans BitVec.extractLsb'_append_eq_right

@[simp] theorem encodeRPK_reg (r : RegNum) (p : PairNum) (k : BitVec 5) (op : BitVec 4) :
    (encodeRPK r p k op).extractLsb' 12 4 = r :=
  (encodeRPK_high r p k op (by omega)).trans BitVec.extractLsb'_append_eq_left

/-- The immediate of Type P-I stands in the two places of a word of Type R-P-K that hold a register and an offset (R88). -/
theorem encodePI_eq_encodeRPK (p : PairNum) (i : BitVec 9) :
    encodePI p i = encodeRPK (i.extractLsb' 5 4) p (i.extractLsb' 0 5) 0b1101#4 := rfl

/-- The two parts of the immediate of Type P-I, put together. -/
theorem extractLsb'_append_immediate (i : BitVec 9) : i.extractLsb' 5 4 ++ i.extractLsb' 0 5 = i :=
  (BitVec.extractLsb'_append_extractLsb'_eq_extractLsb' rfl).trans BitVec.extractLsb'_eq_self

/-- Bits 11 to 0 of POP are fixed. -/
theorem encodePop_low (rd : RegNum) {start len : Nat} (h : start + len ≤ 12) :
    (encodePop rd).extractLsb' start len = BitVec.extractLsb' start len 0b1110_0010_0000#12 :=
  BitVec.extractLsb'_append_eq_of_add_le h

@[simp] theorem encodePop_opcode (rd : RegNum) : (encodePop rd).extractLsb' 0 4 = 0b0000#4 := encodePop_low rd (by omega)
@[simp] theorem encodePop_fixed (rd : RegNum) : (encodePop rd).extractLsb' 4 8 = 0xE2#8 := encodePop_low rd (by omega)
@[simp] theorem encodePop_reg (rd : RegNum) : (encodePop rd).extractLsb' 12 4 = rd := BitVec.extractLsb'_append_eq_left

theorem encodePop_ne_zero (rd : RegNum) : encodePop rd ≠ 0#16 := fun h =>
  absurd ((encodePop_fixed rd).symm.trans (congrArg (BitVec.extractLsb' 4 8) h)) (by decide)

/-- Bits 8 to 0 of a word of Type P-P are fixed. -/
theorem encodePP_low (pd ps : PairNum) {start len : Nat} (h : start + len ≤ 9) :
    (encodePP pd ps).extractLsb' start len = BitVec.extractLsb' start len 0b0_1001_1111#9 :=
  BitVec.extractLsb'_append_eq_of_add_le h

@[simp] theorem encodePP_opcode (pd ps : PairNum) : (encodePP pd ps).extractLsb' 0 4 = 0b1111#4 := encodePP_low pd ps (by omega)
@[simp] theorem encodePP_function (pd ps : PairNum) : (encodePP pd ps).extractLsb' 4 4 = 0b1001#4 := encodePP_low pd ps (by omega)
@[simp] theorem encodePP_bit8 (pd ps : PairNum) : (encodePP pd ps).extractLsb' 8 1 = 0b0#1 := encodePP_low pd ps (by omega)

@[simp] theorem encodePP_source (pd ps : PairNum) : (encodePP pd ps).extractLsb' 9 3 = ps :=
  (BitVec.extractLsb'_append_eq_of_le (by omega)).trans BitVec.extractLsb'_append_eq_right

/-- Bits 15 to 12 of a word of Type P-P are the destination over a zero. -/
theorem encodePP_high (pd ps : PairNum) {start len : Nat} (h : 12 ≤ start) :
    (encodePP pd ps).extractLsb' start len = BitVec.extractLsb' (start - 12) len (pd ++ 0b0#1) := by
  unfold encodePP
  rw [BitVec.extractLsb'_append_eq_of_le (by omega), BitVec.extractLsb'_append_eq_of_le (by omega), Nat.sub_sub]

@[simp] theorem encodePP_bit12 (pd ps : PairNum) : (encodePP pd ps).extractLsb' 12 1 = 0b0#1 :=
  (encodePP_high pd ps (by omega)).trans BitVec.extractLsb'_append_eq_right

@[simp] theorem encodePP_destination (pd ps : PairNum) : (encodePP pd ps).extractLsb' 13 3 = pd :=
  (encodePP_high pd ps (by omega)).trans BitVec.extractLsb'_append_eq_left

/-! ### The conditional families

The constructors of each family are one function of the condition, and so are their words. -/

theorem encode_jump (cfg : Config) (cond : Cond) (a : Word) : encode cfg (.jump cond a) = [encodeConditional cond 0b0010, a] := by
  cases cond <;> rfl

theorem encode_callTo (cfg : Config) (cond : Cond) (a : Word) : encode cfg (.callTo cond a) = [encodeConditional cond 0b0001, a] := by
  cases cond <;> rfl

theorem selected_selector (cond : Cond) (build : Cond → FirstWord) : selected cond.selector build = build cond := by
  cases cond <;> rfl

theorem decodeFirst_encodeBranch (cond : Cond) (a : BitVec 9) : decodeFirst (encodeBranch cond a) = .one (.branch cond a) :=
  (decodeFirst_branchWord cond.selector a).trans (selected_selector ..)

theorem decodeFirst_encodeP (cond : Cond) (p : PairNum) : decodeFirst (encodeP cond p) = .one (.indirect cond p) :=
  (decodeFirst_indirectWord cond.selector p).trans (selected_selector ..)

/-! In Type A and the returns (R93, R95) fixed bits alone stand below the selector. -/

theorem decodeFirst_encodeConditional_jump (cond : Cond) : decodeFirst (encodeConditional cond 0b0010#4) = .jump cond := by
  have hword : encodeConditional cond 0b0010#4 = cond.selector ++ 0b0111000101111#13 := by cases cond <;> rfl
  rw [hword, decodeFirst_jumpWord, selected_selector]

theorem decodeFirst_encodeConditional_call (cond : Cond) : decodeFirst (encodeConditional cond 0b0001#4) = .call cond := by
  have hword : encodeConditional cond 0b0001#4 = cond.selector ++ 0b0111000011111#13 := by cases cond <;> rfl
  rw [hword, decodeFirst_callWord, selected_selector]

theorem decodeFirst_encodeConditional_return (cond : Cond) :
    decodeFirst (encodeConditional cond 0b0100#4) = .one (.returnOn cond) := by
  have hword : encodeConditional cond 0b0100#4 = cond.selector ++ 0b0111001001111#13 := by cases cond <;> rfl
  rw [hword, decodeFirst_returnWord, selected_selector]

/-! ### The rows of the table (R109)

Under the mask of its row a word keeps its fixed bits, which are the word whose operands are all zero. -/

theorem encodeRI_and_mask (r : RegNum) (i : Byte) (op : BitVec 4) : encodeRI r i op &&& 0x000F = encodeRI 0 0 op := by
  change (r ++ i ++ op) &&& (0#4 ++ 0#8 ++ BitVec.allOnes 4) = 0#4 ++ 0#8 ++ op
  simp only [BitVec.and_append, BitVec.and_zero, BitVec.and_allOnes]

theorem encodeRR_and_mask (rd rs : RegNum) (fn : BitVec 4) : encodeRR rd rs fn &&& 0x00FF = encodeRR 0 0 fn := by
  change (rd ++ rs ++ fn ++ 0b1010#4) &&& (0#4 ++ 0#4 ++ BitVec.allOnes 4 ++ BitVec.allOnes 4) = 0#4 ++ 0#4 ++ fn ++ 0b1010#4
  simp only [BitVec.and_append, BitVec.and_zero, BitVec.and_allOnes]

theorem encodeRP_and_mask (r : RegNum) (p : PairNum) (fn : BitVec 4) : encodeRP r p fn &&& 0x01FF = encodeRP 0 0 fn := by
  change (r ++ p ++ 0b0#1 ++ fn ++ 0b1010#4) &&& (0#4 ++ 0#3 ++ BitVec.allOnes 1 ++ BitVec.allOnes 4 ++ BitVec.allOnes 4) =
    0#4 ++ 0#3 ++ 0b0#1 ++ fn ++ 0b1010#4
  simp only [BitVec.and_append, BitVec.and_zero, BitVec.and_allOnes]

theorem encodeRPK_and_mask (r : RegNum) (p : PairNum) (k : BitVec 5) (op : BitVec 4) :
    encodeRPK r p k op &&& 0x000F = encodeRPK 0 0 0 op := by
  change (r ++ p ++ k ++ op) &&& (0#4 ++ 0#3 ++ 0#5 ++ BitVec.allOnes 4) = 0#4 ++ 0#3 ++ 0#5 ++ op
  simp only [BitVec.and_append, BitVec.and_zero, BitVec.and_allOnes]

theorem encodePI_and_mask (p : PairNum) (i : BitVec 9) : encodePI p i &&& 0x000F = encodePI 0 0 :=
  encodeRPK_and_mask ..

theorem encodeBranch_and_mask (cond : Cond) (a : BitVec 9) : encodeBranch cond a &&& 0xE00F = encodeBranch cond 0 := by
  change (cond.selector ++ a ++ 0b1110#4) &&& (BitVec.allOnes 3 ++ 0#9 ++ BitVec.allOnes 4) = cond.selector ++ 0#9 ++ 0b1110#4
  simp only [BitVec.and_append, BitVec.and_zero, BitVec.and_allOnes]

theorem encodeR_and_mask (rd : RegNum) (fn : BitVec 4) : encodeR rd fn &&& 0x0FFF = encodeR 0 fn := by
  change (rd ++ 0b0000#4 ++ fn ++ 0b1111#4) &&& (0#4 ++ BitVec.allOnes 4 ++ BitVec.allOnes 4 ++ BitVec.allOnes 4) =
    0#4 ++ 0b0000#4 ++ fn ++ 0b1111#4
  simp only [BitVec.and_append, BitVec.and_zero, BitVec.and_allOnes]

theorem encodePop_and_mask (rd : RegNum) : encodePop rd &&& 0x0FFF = encodePop 0 := by
  change (rd ++ 0b1110_0010_0000#12) &&& (0#4 ++ BitVec.allOnes 12) = 0#4 ++ 0b1110_0010_0000#12
  simp only [BitVec.and_append, BitVec.and_zero, BitVec.and_allOnes]

theorem encodeP_and_mask (cond : Cond) (p : PairNum) : encodeP cond p &&& 0xF1FF = encodeP cond 0 := by
  change (cond.selector ++ 0b0#1 ++ p ++ 0b0_0011_1111#9) &&& (BitVec.allOnes 3 ++ BitVec.allOnes 1 ++ 0#3 ++ BitVec.allOnes 9) =
    cond.selector ++ 0b0#1 ++ 0#3 ++ 0b0_0011_1111#9
  simp only [BitVec.and_append, BitVec.and_zero, BitVec.and_allOnes]

theorem encodeM_and_mask (m fn : BitVec 4) : encodeM m fn &&& 0xF0FF = encodeM 0 fn := by
  change (0b0000#4 ++ m ++ fn ++ 0b1111#4) &&& (BitVec.allOnes 4 ++ 0#4 ++ BitVec.allOnes 4 ++ BitVec.allOnes 4) =
    0b0000#4 ++ 0#4 ++ fn ++ 0b1111#4
  simp only [BitVec.and_append, BitVec.and_zero, BitVec.and_allOnes]

theorem encodePP_and_mask (pd ps : PairNum) : encodePP pd ps &&& 0x11FF = encodePP 0 0 := by
  change (pd ++ 0b0#1 ++ ps ++ 0b0_1001_1111#9) &&& (0#3 ++ BitVec.allOnes 1 ++ 0#3 ++ BitVec.allOnes 9) =
    0#3 ++ 0b0#1 ++ 0#3 ++ 0b0_1001_1111#9
  simp only [BitVec.and_append, BitVec.and_zero, BitVec.and_allOnes]

theorem and_fullMask (w : Word) : w &&& 0xFFFF = w := BitVec.and_allOnes

/-- A row of the table allocates the words it covers (R102, R109). -/
theorem allocated_of_row {w pattern mask : Word} (hw : w &&& mask = pattern)
    (hrow : (pattern, mask) ∈ opcodeTable.map fun row => (row.pattern, row.mask)) : unallocated w = false := by
  obtain ⟨row, hmem, heq⟩ := List.mem_map.1 hrow
  obtain ⟨rfl, rfl⟩ := Prod.mk.inj heq
  exact List.all_eq_false.2 ⟨row, hmem, by simp [TableRow.covers, hw]⟩

/-! ### The instruction of a first word -/

/-- The instructions that a first word, read alone, leaves possible: one, or those of Type A on one condition (R80, R106). -/
@[simp] def FirstWord.Selects : FirstWord → Instr → Prop
  | .one i, j => j = i
  | .jump cond, j => ∃ a, j = .jump cond a
  | .call cond, j => ∃ a, j = .callTo cond a
  | .unallocated, _ => False

/-- Two instructions that one first word selects are the same, or of Type A on one condition. -/
theorem FirstWord.Selects.eq_or_typeA {first : FirstWord} {i j : Instr} (hi : first.Selects i) (hj : first.Selects j) :
    i = j ∨ ∃ cond a b, (i = .jump cond a ∧ j = .jump cond b) ∨ (i = .callTo cond a ∧ j = .callTo cond b) := by
  cases first with
  | one k => exact .inl (hi.trans hj.symm)
  | jump cond =>
    obtain ⟨a, rfl⟩ := hi
    obtain ⟨b, rfl⟩ := hj
    exact .inr ⟨cond, a, b, .inl ⟨rfl, rfl⟩⟩
  | call cond =>
    obtain ⟨a, rfl⟩ := hi
    obtain ⟨b, rfl⟩ := hj
    exact .inr ⟨cond, a, b, .inr ⟨rfl, rfl⟩⟩
  | unallocated => exact hi.elim

/-- Every instruction but HLT is written with a first word of the table, and the decoder reads that word as the instruction. -/
theorem encode_first (cfg : Config) {i : Instr} (hi : i ≠ .hlt) :
    ∃ w, (encode cfg i).head? = some w ∧ (decodeFirst w).Selects i ∧ unallocated w = false := by
  cases i
  case hlt => exact absurd rfl hi
  case ldi | ani | ori | xoi | adi | aci | cpi | inp | out =>
    exact ⟨_, rfl, by simp [decodeFirst], allocated_of_row (encodeRI_and_mask ..) (by decide)⟩
  case mov | and | or | xor | add | adc | cmp | sub | sbb =>
    exact ⟨_, rfl, by simp [decodeFirst, decodeGroup10, encodeRR_eq_nibbles], allocated_of_row (encodeRR_and_mask ..) (by decide)⟩
  case sri | srd | lri | lrd =>
    exact ⟨_, rfl, by simp [decodeFirst, decodeGroup10], allocated_of_row (encodeRP_and_mask ..) (by decide)⟩
  case str | ldr => exact ⟨_, rfl, by simp [decodeFirst], allocated_of_row (encodeRPK_and_mask ..) (by decide)⟩
  case api =>
    exact ⟨_, rfl, by simp [decodeFirst, encodePI_eq_encodeRPK, extractLsb'_append_immediate],
      allocated_of_row (encodePI_and_mask ..) (by decide)⟩
  case br | bc | bnc | bz | bnz | bn | bnn =>
    exact ⟨_, rfl, by simp [decodeFirst_encodeBranch, Instr.branch], allocated_of_row (encodeBranch_and_mask ..) (by decide)⟩
  case sll | srl | sra | rlc | rrc | not =>
    exact ⟨_, rfl, by simp [decodeFirst, decodeGroup15, decodeTypeR, encodeR_eq_nibbles],
      allocated_of_row (encodeR_and_mask ..) (by decide)⟩
  case pop =>
    exact ⟨_, rfl, by simp [decodeFirst, decodeGroup0, encodePop_ne_zero], allocated_of_row (encodePop_and_mask ..) (by decide)⟩
  case jmpi | jci | jnci | jzi | jnzi | jni | jnni =>
    exact ⟨_, rfl, by simp [decodeFirst_encodeP, Instr.indirect], allocated_of_row (encodeP_and_mask ..) (by decide)⟩
  case jmp | jc | jnc | jz | jnz | jn | jnn =>
    exact ⟨_, rfl, by simp [decodeFirst_encodeConditional_jump, Instr.jump], allocated_of_row (and_fullMask _) (by decide)⟩
  case call | cc | cnc | cz | cnz | cn | cnn =>
    exact ⟨_, rfl, by simp [decodeFirst_encodeConditional_call, Instr.callTo], allocated_of_row (and_fullMask _) (by decide)⟩
  case ret | rc | rnc | rz | rnz | rn | rnn =>
    exact ⟨_, rfl, by simp [decodeFirst_encodeConditional_return, Instr.returnOn], allocated_of_row (and_fullMask _) (by decide)⟩
  case pus | pos | nop => exact ⟨_, rfl, rfl, allocated_of_row (and_fullMask _) (by decide)⟩
  case ssr | csr =>
    exact ⟨_, rfl, by simp [decodeFirst, decodeGroup15, encodeM_eq_nibbles], allocated_of_row (encodeM_and_mask ..) (by decide)⟩
  case mvp => exact ⟨_, rfl, by simp [decodeFirst, decodeGroup15], allocated_of_row (encodePP_and_mask ..) (by decide)⟩

theorem encode_hlt_head (cfg : Config) : (encode cfg .hlt).head? = cfg.hltWord := by
  change cfg.hltWord.toList.head? = cfg.hltWord
  cases cfg.hltWord <;> rfl

/-- What R8 demands of HLT_WORD: it matches no row of the table. -/
theorem unallocated_hltWord {cfg : Config} {w : Word} (hcfg : cfg.wf = true) (hw : cfg.hltWord = some w) : unallocated w = true := by
  have hfree : cfg.hltWordFree = true := (Bool.and_eq_true_iff.1 hcfg).2
  simpa [Config.hltWordFree, hw] using hfree

/-- The word of HLT is no word of the table (R105), so no other instruction is written with it. -/
theorem eq_hlt_of_head_eq {cfg : Config} {i : Instr} (hcfg : cfg.wf = true)
    (heq : (encode cfg i).head? = (encode cfg .hlt).head?) : i = .hlt := by
  by_contra hi
  obtain ⟨w, hw, -, hrow⟩ := encode_first cfg hi
  have hhlt : cfg.hltWord = some w := by rw [← encode_hlt_head, ← heq, hw]
  exact Bool.false_ne_true (hrow.symm.trans (unallocated_hltWord hcfg hhlt))

/-- Under legal parameters the first word selects the instruction (R80). -/
theorem eq_or_typeA_of_head_eq {cfg : Config} {i j : Instr} (hcfg : cfg.wf = true)
    (heq : (encode cfg i).head? = (encode cfg j).head?) :
    i = j ∨ ∃ cond a b, (i = .jump cond a ∧ j = .jump cond b) ∨ (i = .callTo cond a ∧ j = .callTo cond b) := by
  by_cases hi : i = .hlt
  · subst hi
    exact .inl (eq_hlt_of_head_eq hcfg heq.symm).symm
  by_cases hj : j = .hlt
  · subst hj
    exact .inl (eq_hlt_of_head_eq hcfg heq)
  obtain ⟨w, hw, hwi, -⟩ := encode_first cfg hi
  obtain ⟨v, hv, hvj, -⟩ := encode_first cfg hj
  obtain rfl : w = v := Option.some.inj (hw.symm.trans (heq.trans hv))
  exact hwi.eq_or_typeA hvj

/-! ### The number of words -/

theorem length_jump (cond : Cond) (a : Word) : (Instr.jump cond a).length = 2 := by cases cond <;> rfl
theorem length_callTo (cond : Cond) (a : Word) : (Instr.callTo cond a).length = 2 := by cases cond <;> rfl

theorem jump_ne_callTo (cond : Cond) (a : Word) : Instr.jump cond a ≠ .callTo cond a := by
  cases cond <;> exact Instr.noConfusion

/-- R80: an instruction is of Type A, or takes one word. -/
theorem typeA_or_length_eq_one (i : Instr) : (∃ cond a, i = .jump cond a ∨ i = .callTo cond a) ∨ i.length = 1 := by
  cases i
  case jmp a => exact .inl ⟨.always, a, .inl rfl⟩
  case jc a => exact .inl ⟨.c, a, .inl rfl⟩
  case jnc a => exact .inl ⟨.nc, a, .inl rfl⟩
  case jz a => exact .inl ⟨.z, a, .inl rfl⟩
  case jnz a => exact .inl ⟨.nz, a, .inl rfl⟩
  case jn a => exact .inl ⟨.n, a, .inl rfl⟩
  case jnn a => exact .inl ⟨.nn, a, .inl rfl⟩
  case call a => exact .inl ⟨.always, a, .inr rfl⟩
  case cc a => exact .inl ⟨.c, a, .inr rfl⟩
  case cnc a => exact .inl ⟨.nc, a, .inr rfl⟩
  case cz a => exact .inl ⟨.z, a, .inr rfl⟩
  case cnz a => exact .inl ⟨.nz, a, .inr rfl⟩
  case cn a => exact .inl ⟨.n, a, .inr rfl⟩
  case cnn a => exact .inl ⟨.nn, a, .inr rfl⟩
  all_goals exact .inr rfl

/-- The lemmas of `Laws.EncodedLength`, for every instruction. -/
theorem encode_length {cfg : Config} {i : Instr} (hi : i.wellFormed cfg = true) : (encode cfg i).length = i.length := by
  cases i
  case hlt => exact Laws.EncodedLength.hlt cfg hi
  all_goals rfl

/-- A one-word instruction is not of Type A, and its encoding is one word. -/
theorem encode_one_word {cfg : Config} {i : Instr} (hi : i.wellFormed cfg = true) (hlen : i.length = 1) :
    (∀ cond a, i ≠ .jump cond a ∧ i ≠ .callTo cond a) ∧ ∃ w, encode cfg i = [w] := by
  refine ⟨fun cond a => ⟨?_, ?_⟩, List.length_eq_one_iff.1 ((encode_length hi).trans hlen)⟩
  · rintro rfl
    exact absurd ((length_jump cond a).symm.trans hlen) (by decide)
  · rintro rfl
    exact absurd ((length_callTo cond a).symm.trans hlen) (by decide)

/-! ### The obligation -/

/-- Settles O6: the number of words by the instruction's type; the selection because the decoder reads the instruction, up to the address of Type A, off its first word, and HLT_WORD is outside the table. -/
theorem instructionsAreOneWordButTypeA : Obligations.InstructionsAreOneWordButTypeA := by
  unfold Obligations.InstructionsAreOneWordButTypeA
  refine ⟨fun cfg i hi => ?words, fun cfg i j hcfg _ _ heq => eq_or_typeA_of_head_eq hcfg heq⟩
  case words =>
    obtain ⟨cond, a, rfl | rfl⟩ | hlen := typeA_or_length_eq_one i
    · exact .inl ⟨cond, a, _, .inl rfl, encode_jump cfg cond a, fun b =>
        ⟨fun _ => encode_jump cfg cond b, fun h => absurd h (jump_ne_callTo cond a)⟩⟩
    · exact .inl ⟨cond, a, _, .inr rfl, encode_callTo cfg cond a, fun b =>
        ⟨fun h => absurd h.symm (jump_ne_callTo cond a), fun _ => encode_callTo cfg cond b⟩⟩
    · exact .inr (encode_one_word hi hlen)

end Sys2Proof

/-! PROOFS. OUT (41_type_r-io.md R132): its word, its next state, its cost. -/

namespace Sys2Proof

open Sys2Proof.Machine

/-- An access to a port is one more event of the log, and nothing else of the state (20_memory.md R55). -/
theorem ioWrite_eq (s : State) (port v : Byte) :
    s.ioWrite port v = { s with iolog := s.iolog ++ [.output port v] } := rfl

/-- The sequential advance moves the pc, and nothing else of the state (10_state.md R26). -/
theorem advance_eq (s : State) (n : Word) : s.advance n = { s with pc := s.pc + n } := rfl

theorem exec_out (rs : RegNum) (io : Byte) (s : State) :
    exec (.out rs io) s = .next ((s.ioWrite io (s.readReg rs)).advance 1) := rfl

/-- An instruction without a condition has the one cost of its row (R267). -/
theorem cycles_of_always {i : Instr} (h : conditionOf i = .always) (s : State) : cycles i s = takenCost i := by
  have htaken : s.cond (conditionOf i) = true := by rw [h, cond_always]
  exact if_pos htaken

theorem encode_out (cfg : Config) (rs : RegNum) (io : Byte) : encode cfg (.out rs io) = [rs ++ io ++ 0b1001#4] := rfl

/-- Settles O31: the word is the format of Type R-IO with the opcode 1001; the next state is IoWrite followed by the advance; OUT has no condition, so its cost is that of its row. -/
theorem outLogsTheByteSent : Obligations.OutLogsTheByteSent := by
  unfold Obligations.OutLogsTheByteSent
  intro s rs io
  refine ⟨?word, ?next, ?cost⟩
  case word => exact encode_out s.cfg rs io
  case next => rw [exec_out, advance_eq, ioWrite_eq]
  case cost => exact cycles_of_always rfl s

end Sys2Proof

/-! PROOFS. NOP (48_type_no_args.md R230): its next state, its word, its cost. -/

namespace Sys2Proof

open Sys2Proof.Machine

theorem exec_nop (s : State) : exec .nop s = .next (s.advance 1) := rfl

theorem encode_nop (cfg : Config) : encode cfg .nop = [0x0000] := rfl

/-- Settles O53: NOP is the sequential advance alone; its word is the one of all zeros; it has no condition, so its cost is that of its row. -/
theorem nopOnlyAdvancesThePc : Obligations.NopOnlyAdvancesThePc := by
  unfold Obligations.NopOnlyAdvancesThePc
  intro s
  refine ⟨?next, ?word, ?cost⟩
  case next => rw [exec_nop, advance_eq]
  case word => exact encode_nop s.cfg
  case cost => exact cycles_of_always rfl s

end Sys2Proof

/-! PROOFS. Decoding and encoding are inverse (30_encoding.md R80 to R106): what the decoder answers for the words of an instruction, and the fields that a word is made of. -/

namespace Sys2Proof

open Sys2Proof.Machine

/-! ### The decoder on a list of words (R106) -/

theorem decode_hltWord {cfg : Config} {w : Word} (h : cfg.hltWord = some w) (rest : List Word) :
    decode cfg (w :: rest) = .ok .hlt rest :=
  if_pos h

theorem decode_one {cfg : Config} {w : Word} {i : Instr} (hw : cfg.hltWord ≠ some w) (hi : decodeFirst w = .one i)
    (rest : List Word) : decode cfg (w :: rest) = .ok i rest := by
  simp [decode, hw, hi]

theorem decode_jump {cfg : Config} {w : Word} {cond : Cond} (hw : cfg.hltWord ≠ some w) (hi : decodeFirst w = .jump cond)
    (a : Word) (rest : List Word) : decode cfg (w :: a :: rest) = .ok (.jump cond a) rest := by
  simp [decode, hw, hi]

theorem decode_call {cfg : Config} {w : Word} {cond : Cond} (hw : cfg.hltWord ≠ some w) (hi : decodeFirst w = .call cond)
    (a : Word) (rest : List Word) : decode cfg (w :: a :: rest) = .ok (.callTo cond a) rest := by
  simp [decode, hw, hi]

/-- The first word of Type A alone is no instruction yet (R94). -/
theorem decode_noSecondWord {cfg : Config} {w : Word} {cond : Cond} (hw : cfg.hltWord ≠ some w)
    (hi : decodeFirst w = .jump cond ∨ decodeFirst w = .call cond) : decode cfg [w] = .noSecondWord := by
  obtain hi | hi := hi <;> simp [decode, hw, hi]

/-- A word that is not HLT_WORD is refused exactly when it is unallocated. -/
theorem decode_illegal_iff {cfg : Config} {w : Word} (hw : cfg.hltWord ≠ some w) (rest : List Word) :
    decode cfg (w :: rest) = .illegal w ↔ decodeFirst w = .unallocated := by
  cases hfirst : decodeFirst w <;> cases rest <;> simp [decode, hw, hfirst]

/-- The three ways in which words decode to an instruction: HLT_WORD, a one-word instruction, Type A with its second word. -/
theorem decode_ok_cases {cfg : Config} {words rest : List Word} {i : Instr} (h : decode cfg words = .ok i rest) :
    (∃ w, words = w :: rest ∧ cfg.hltWord = some w ∧ i = .hlt) ∨
      (∃ w, words = w :: rest ∧ decodeFirst w = .one i) ∨
      ∃ w cond a, words = w :: a :: rest ∧
        ((decodeFirst w = .jump cond ∧ i = .jump cond a) ∨ (decodeFirst w = .call cond ∧ i = .callTo cond a)) := by
  cases words with
  | nil => simp [decode] at h
  | cons w tail =>
    by_cases hw : cfg.hltWord = some w
    · rw [decode_hltWord hw] at h
      obtain ⟨rfl, rfl⟩ := Decoded.ok.inj h
      exact .inl ⟨w, rfl, hw, rfl⟩
    cases hfirst : decodeFirst w with
    | one j =>
      rw [decode_one hw hfirst] at h
      obtain ⟨rfl, rfl⟩ := Decoded.ok.inj h
      exact .inr (.inl ⟨w, rfl, hfirst⟩)
    | jump cond =>
      cases tail with
      | nil => simp [decode_noSecondWord hw (.inl hfirst)] at h
      | cons a tail =>
        rw [decode_jump hw hfirst] at h
        obtain ⟨rfl, rfl⟩ := Decoded.ok.inj h
        exact .inr (.inr ⟨w, cond, a, rfl, .inl ⟨hfirst, rfl⟩⟩)
    | call cond =>
      cases tail with
      | nil => simp [decode_noSecondWord hw (.inr hfirst)] at h
      | cons a tail =>
        rw [decode_call hw hfirst] at h
        obtain ⟨rfl, rfl⟩ := Decoded.ok.inj h
        exact .inr (.inr ⟨w, cond, a, rfl, .inr ⟨hfirst, rfl⟩⟩)
    | unallocated => simp [(decode_illegal_iff hw tail).2 hfirst] at h

/-! ### Decoding an encoding -/

/-- HLT_WORD is not the first word of any other instruction (R105). -/
theorem hltWord_ne_first {cfg : Config} {w : Word} (hcfg : cfg.wf = true) (hw : unallocated w = false) : cfg.hltWord ≠ some w :=
  fun h => Bool.false_ne_true (hw.symm.trans (unallocated_hltWord hcfg h))

theorem decode_encode_hlt {cfg : Config} (hi : Instr.hlt.wellFormed cfg = true) (rest : List Word) :
    decode cfg (encode cfg .hlt ++ rest) = .ok .hlt rest := by
  obtain ⟨w, hw⟩ := Option.isSome_iff_exists.1 (show cfg.hltWord.isSome = true from hi)
  have henc : encode cfg .hlt = [w] := by simp [encode, hw]
  rw [henc]
  exact decode_hltWord hw rest

/-- The decoder reads an instruction back from its words, whatever follows them. -/
theorem decode_encode {cfg : Config} {i : Instr} (hcfg : cfg.wf = true) (hi : i.wellFormed cfg = true) (rest : List Word) :
    decode cfg (encode cfg i ++ rest) = .ok i rest := by
  by_cases hhlt : i = .hlt
  · subst hhlt
    exact decode_encode_hlt hi rest
  obtain ⟨w, hhead, hsel, hrow⟩ := encode_first cfg hhlt
  have hw := hltWord_ne_first hcfg hrow
  obtain ⟨cond, a, rfl | rfl⟩ | hlen := typeA_or_length_eq_one i
  · rw [encode_jump] at hhead ⊢
    obtain rfl := Option.some.inj hhead
    exact decode_jump hw (decodeFirst_encodeConditional_jump cond) a rest
  · rw [encode_callTo] at hhead ⊢
    obtain rfl := Option.some.inj hhead
    exact decode_call hw (decodeFirst_encodeConditional_call cond) a rest
  · obtain ⟨hnotA, v, henc⟩ := encode_one_word hi hlen
    rw [henc] at hhead ⊢
    obtain rfl := Option.some.inj hhead
    cases hfirst : decodeFirst v with
    | one j =>
      rw [hfirst] at hsel
      obtain rfl : i = j := hsel
      exact decode_one hw hfirst rest
    | jump cond =>
      rw [hfirst] at hsel
      obtain ⟨a, ha⟩ := hsel
      exact absurd ha (hnotA cond a).1
    | call cond =>
      rw [hfirst] at hsel
      obtain ⟨a, ha⟩ := hsel
      exact absurd ha (hnotA cond a).2
    | unallocated =>
      rw [hfirst] at hsel
      exact hsel.elim

/-- Settles O2: the first word of an instruction selects it, and under legal parameters is not HLT_WORD. -/
theorem decodeOfEncode : Obligations.DecodeOfEncode := by
  unfold Obligations.DecodeOfEncode
  exact fun _ _ rest hcfg hi => decode_encode hcfg hi rest

/-! ### A word is made of its fields -/

/-- Two fields that stand side by side are one field. -/
theorem extract_glue (w : Word) (low lowLen highLen : Nat) :
    w.extractLsb' (low + lowLen) highLen ++ w.extractLsb' low lowLen = w.extractLsb' low (highLen + lowLen) :=
  BitVec.extractLsb'_append_extractLsb'_eq_extractLsb' rfl

theorem encodeRI_fields {w : Word} {op : BitVec 4} (hop : w.extractLsb' 0 4 = op) :
    encodeRI (w.extractLsb' 12 4) (w.extractLsb' 4 8) op = w := by
  subst hop
  rw [encodeRI, extract_glue w 4 8 4, extract_glue w 0 4 12, BitVec.extractLsb'_eq_self]

theorem nibbles_fields {w : Word} {op fn : BitVec 4} (hop : w.extractLsb' 0 4 = op) (hfn : w.extractLsb' 4 4 = fn) :
    nibbles (w.extractLsb' 12 4) (w.extractLsb' 8 4) fn op = w := by
  subst hop hfn
  rw [nibbles, extract_glue w 8 4 4, extract_glue w 4 4 8, extract_glue w 0 4 12, BitVec.extractLsb'_eq_self]

theorem encodeRR_fields {w : Word} {fn : BitVec 4} (hop : w.extractLsb' 0 4 = 0xA#4) (hfn : w.extractLsb' 4 4 = fn) :
    encodeRR (w.extractLsb' 12 4) (w.extractLsb' 8 4) fn = w :=
  nibbles_fields hop hfn

theorem encodeR_fields {w : Word} {fn : BitVec 4} (hop : w.extractLsb' 0 4 = 0xF#4) (hfn : w.extractLsb' 4 4 = fn)
    (hfix : w.extractLsb' 8 4 = 0) : encodeR (w.extractLsb' 12 4) fn = w := by
  rw [encodeR_eq_nibbles, ← nibbles_fields hop hfn, nibbles_first, hfix]
  rfl

theorem encodeM_fields {w : Word} {fn : BitVec 4} (hop : w.extractLsb' 0 4 = 0xF#4) (hfn : w.extractLsb' 4 4 = fn)
    (hfix : w.extractLsb' 12 4 = 0) : encodeM (w.extractLsb' 8 4) fn = w := by
  rw [encodeM_eq_nibbles, ← nibbles_fields hop hfn, nibbles_second, hfix]
  rfl

theorem encodeRP_fields {w : Word} {fn : BitVec 4} (hop : w.extractLsb' 0 4 = 0xA#4) (hfn : w.extractLsb' 4 4 = fn)
    (h8 : w.extractLsb' 8 1 = 0) : encodeRP (w.extractLsb' 12 4) (w.extractLsb' 9 3) fn = w := by
  have hbits : w.extractLsb' 12 4 ++ w.extractLsb' 9 3 ++ w.extractLsb' 8 1 ++ w.extractLsb' 4 4 ++ w.extractLsb' 0 4 = w := by
    rw [extract_glue w 9 3 4, extract_glue w 8 1 7, extract_glue w 4 4 8, extract_glue w 0 4 12, BitVec.extractLsb'_eq_self]
  rwa [hop, hfn, h8] at hbits

theorem encodeRPK_fields {w : Word} {op : BitVec 4} (hop : w.extractLsb' 0 4 = op) :
    encodeRPK (w.extractLsb' 12 4) (w.extractLsb' 9 3) (w.extractLsb' 4 5) op = w := by
  subst hop
  rw [encodeRPK, extract_glue w 9 3 4, extract_glue w 4 5 7, extract_glue w 0 4 12, BitVec.extractLsb'_eq_self]

theorem encodePI_fields {w : Word} (hop : w.extractLsb' 0 4 = 0xD#4) :
    encodePI (w.extractLsb' 9 3) (w.extractLsb' 12 4 ++ w.extractLsb' 4 5) = w := by
  have hhigh : BitVec.extractLsb' 5 4 (w.extractLsb' 12 4 ++ w.extractLsb' 4 5) = w.extractLsb' 12 4 :=
    BitVec.extractLsb'_append_eq_left
  have hlow : BitVec.extractLsb' 0 5 (w.extractLsb' 12 4 ++ w.extractLsb' 4 5) = w.extractLsb' 4 5 :=
    BitVec.extractLsb'_append_eq_right
  rw [encodePI_eq_encodeRPK, hhigh, hlow, encodeRPK_fields hop]

theorem encodeBranch_fields {w : Word} {cond : Cond} (hop : w.extractLsb' 0 4 = 0xE#4) (hc : cond.selector = w.extractLsb' 13 3) :
    encodeBranch cond (w.extractLsb' 4 9) = w := by
  have hbits : w.extractLsb' 13 3 ++ w.extractLsb' 4 9 ++ w.extractLsb' 0 4 = w := by
    rw [extract_glue w 4 9 3, extract_glue w 0 4 12, BitVec.extractLsb'_eq_self]
  rwa [hop, ← hc] at hbits

/-- The low nine bits of the formats P and P-P, by their fields. -/
theorem extract_low9 {w : Word} {fn : BitVec 4} (hop : w.extractLsb' 0 4 = 0xF#4) (hfn : w.extractLsb' 4 4 = fn)
    (h8 : w.extractLsb' 8 1 = 0) : w.extractLsb' 0 9 = 0#1 ++ fn ++ 0xF#4 := by
  have hbits : w.extractLsb' 8 1 ++ w.extractLsb' 4 4 ++ w.extractLsb' 0 4 = w.extractLsb' 0 9 := by
    rw [extract_glue w 4 4 1, extract_glue w 0 4 5]
  rw [← hbits, hop, hfn, h8]
  rfl

/-- A word by its three high bits, bit 12, a pair and the low nine bits. -/
theorem pairWord_fields (w : Word) : w.extractLsb' 13 3 ++ w.extractLsb' 12 1 ++ w.extractLsb' 9 3 ++ w.extractLsb' 0 9 = w := by
  rw [extract_glue w 12 1 3, extract_glue w 9 3 4, extract_glue w 0 9 7, BitVec.extractLsb'_eq_self]

theorem encodeP_fields {w : Word} {cond : Cond} (hop : w.extractLsb' 0 4 = 0xF#4) (hfn : w.extractLsb' 4 4 = 0x3#4)
    (h12 : w.extractLsb' 12 1 = 0) (h8 : w.extractLsb' 8 1 = 0) (hc : cond.selector = w.extractLsb' 13 3) :
    encodeP cond (w.extractLsb' 9 3) = w := by
  have hbits := pairWord_fields w
  rwa [← hc, h12, extract_low9 hop hfn h8] at hbits

theorem encodePP_fields {w : Word} (hop : w.extractLsb' 0 4 = 0xF#4) (hfn : w.extractLsb' 4 4 = 0x9#4)
    (h12 : w.extractLsb' 12 1 = 0) (h8 : w.extractLsb' 8 1 = 0) : encodePP (w.extractLsb' 13 3) (w.extractLsb' 9 3) = w := by
  have hbits := pairWord_fields w
  rwa [h12, extract_low9 hop hfn h8] at hbits

theorem encodeConditional_fields {w : Word} {cond : Cond} {fn : BitVec 4} (hop : w.extractLsb' 0 4 = 0xF#4)
    (hfn : w.extractLsb' 4 4 = fn) (hfix : w.extractLsb' 8 5 = 0b01110) (hc : cond.selector = w.extractLsb' 13 3) :
    encodeConditional cond fn = w := by
  have hbits : w.extractLsb' 13 3 ++ w.extractLsb' 8 5 ++ w.extractLsb' 4 4 ++ w.extractLsb' 0 4 = w := by
    rw [extract_glue w 8 5 3, extract_glue w 4 4 8, extract_glue w 0 4 12, BitVec.extractLsb'_eq_self]
  rwa [hop, hfn, hfix, ← hc] at hbits

theorem encodePop_fields {w : Word} (hop : w.extractLsb' 0 4 = 0#4) (hfix : w.extractLsb' 4 8 = 0xE2) :
    encodePop (w.extractLsb' 12 4) = w := by
  have hbits : w.extractLsb' 12 4 ++ w.extractLsb' 4 8 ++ w.extractLsb' 0 4 = w := encodeRI_fields rfl
  have hlow : 0xE2#8 ++ 0#4 = 0b1110_0010_0000#12 := rfl
  rw [hop, hfix, BitVec.append_assoc] at hbits
  exact hbits

/-- A word of PUS or POS: all its bits are fixed (R95). -/
theorem eq_of_high_and_low {w : Word} {fn : BitVec 4} (hop : w.extractLsb' 0 4 = 0xF#4) (hfn : w.extractLsb' 4 4 = fn)
    (hfix : w.extractLsb' 8 8 = 0x0E) : 0x0E#8 ++ fn ++ 0xF#4 = w := by
  have hbits : w.extractLsb' 8 8 ++ w.extractLsb' 4 4 ++ w.extractLsb' 0 4 = w := by
    rw [extract_glue w 4 4 8, extract_glue w 0 4 12, BitVec.extractLsb'_eq_self]
  rwa [hop, hfn, hfix] at hbits

theorem selector_of_ofSelector {ccc : BitVec 3} {cond : Cond} (h : Cond.ofSelector ccc = some cond) : cond.selector = ccc := by
  cases cond <;> revert ccc <;> decide

/-! ### Encoding what was decoded -/

/-- The answer of the decoder for a first word `w` is written with `w`: nothing of the word is lost. -/
def FirstWord.WrittenAs (w : Word) : FirstWord → Prop
  | .one i => i ≠ .hlt ∧ ∀ cfg, encode cfg i = [w]
  | .jump cond => encodeConditional cond 0b0010 = w
  | .call cond => encodeConditional cond 0b0001 = w
  | .unallocated => True

theorem decodeGroup0_writtenAs {w : Word} (hop : w.extractLsb' 0 4 = 0#4) : (decodeGroup0 w).WrittenAs w := by
  unfold decodeGroup0
  split
  case isTrue hw => exact ⟨nofun, fun cfg => by rw [hw]; rfl⟩
  case isFalse =>
    split
    case isTrue hfix => exact ⟨nofun, fun _ => congrArg ([·]) (encodePop_fields hop hfix)⟩
    case isFalse => trivial

theorem decodeGroup10_writtenAs {w : Word} (hop : w.extractLsb' 0 4 = 0xA#4) : (decodeGroup10 w).WrittenAs w := by
  unfold decodeGroup10
  dsimp only
  split
  case h_1 hfn | h_2 hfn | h_3 hfn | h_4 hfn | h_5 hfn | h_6 hfn | h_7 hfn | h_8 hfn | h_9 hfn =>
    exact ⟨nofun, fun _ => congrArg ([·]) (encodeRR_fields hop hfn)⟩
  case h_10 hfn | h_11 hfn | h_12 hfn | h_13 hfn =>
    split
    case isTrue h8 => exact ⟨nofun, fun _ => congrArg ([·]) (encodeRP_fields hop hfn h8)⟩
    case isFalse => trivial
  case h_14 => trivial

theorem decodeBranch_writtenAs {w : Word} (hop : w.extractLsb' 0 4 = 0xE#4) : (decodeBranch w).WrittenAs w := by
  unfold decodeBranch
  split
  case h_1 cond hc =>
    have henc := encodeBranch_fields hop (selector_of_ofSelector hc)
    cases cond <;> exact ⟨nofun, fun _ => congrArg ([·]) henc⟩
  case h_2 => trivial

theorem decodeIndirect_writtenAs {w : Word} (hop : w.extractLsb' 0 4 = 0xF#4) (hfn : w.extractLsb' 4 4 = 0x3#4) :
    (decodeIndirect w).WrittenAs w := by
  unfold decodeIndirect
  split
  case isTrue hfix =>
    split
    case h_1 cond hc =>
      have henc := encodeP_fields hop hfn hfix.1 hfix.2 (selector_of_ofSelector hc)
      cases cond <;> exact ⟨nofun, fun _ => congrArg ([·]) henc⟩
    case h_2 => trivial
  case isFalse => trivial

theorem decodeConditional_writtenAs {w : Word} {fn : BitVec 4} {build : Cond → FirstWord} (hop : w.extractLsb' 0 4 = 0xF#4)
    (hfn : w.extractLsb' 4 4 = fn) (hbuild : ∀ cond, encodeConditional cond fn = w → (build cond).WrittenAs w) :
    (decodeConditional w build).WrittenAs w := by
  unfold decodeConditional
  split
  case isTrue hfix =>
    split
    case h_1 cond hc => exact hbuild cond (encodeConditional_fields hop hfn hfix (selector_of_ofSelector hc))
    case h_2 => trivial
  case isFalse => trivial

theorem returnOn_writtenAs {w : Word} {cond : Cond} (h : encodeConditional cond 0b0100 = w) :
    (FirstWord.one (.returnOn cond)).WrittenAs w := by
  cases cond <;> exact ⟨nofun, fun _ => congrArg ([·]) h⟩

theorem decodeTypeR_writtenAs {w : Word} {fn : BitVec 4} {build : RegNum → Instr} (hop : w.extractLsb' 0 4 = 0xF#4)
    (hfn : w.extractLsb' 4 4 = fn) (hne : ∀ r, build r ≠ .hlt) (henc : ∀ cfg r, encode cfg (build r) = [encodeR r fn]) :
    (decodeTypeR w build).WrittenAs w := by
  unfold decodeTypeR
  split
  case isTrue hfix => exact ⟨hne _, fun cfg => (henc cfg _).trans (congrArg ([·]) (encodeR_fields hop hfn hfix))⟩
  case isFalse => trivial

theorem decodeGroup15_writtenAs {w : Word} (hop : w.extractLsb' 0 4 = 0xF#4) : (decodeGroup15 w).WrittenAs w := by
  unfold decodeGroup15
  split
  case h_1 hfn => exact decodeConditional_writtenAs hop hfn fun _ h => h
  case h_2 hfn => exact decodeConditional_writtenAs hop hfn fun _ h => h
  case h_3 hfn => exact decodeIndirect_writtenAs hop hfn
  case h_4 hfn => exact decodeConditional_writtenAs hop hfn fun _ h => returnOn_writtenAs h
  case h_5 hfn | h_6 hfn =>
    split
    case isTrue hfix => exact ⟨nofun, fun _ => congrArg ([·]) (eq_of_high_and_low hop hfn hfix)⟩
    case isFalse => trivial
  case h_7 hfn | h_8 hfn =>
    split
    case isTrue hfix => exact ⟨nofun, fun _ => congrArg ([·]) (encodeM_fields hop hfn hfix)⟩
    case isFalse => trivial
  case h_9 hfn =>
    split
    case isTrue hfix => exact ⟨nofun, fun _ => congrArg ([·]) (encodePP_fields hop hfn hfix.1 hfix.2)⟩
    case isFalse => trivial
  case h_10 hfn | h_11 hfn | h_12 hfn | h_13 hfn | h_14 hfn | h_15 hfn =>
    exact decodeTypeR_writtenAs hop hfn nofun fun _ _ => rfl
  case h_16 => trivial

/-- Every first word is the encoding of what the decoder reads from it. -/
theorem decodeFirst_writtenAs (w : Word) : (decodeFirst w).WrittenAs w := by
  unfold decodeFirst
  dsimp only
  split
  case h_1 hop => exact decodeGroup0_writtenAs hop
  case h_2 hop | h_3 hop | h_4 hop | h_5 hop | h_6 hop | h_7 hop | h_8 hop | h_9 hop | h_10 hop =>
    exact ⟨nofun, fun _ => congrArg ([·]) (encodeRI_fields hop)⟩
  case h_11 hop => exact decodeGroup10_writtenAs hop
  case h_12 hop | h_13 hop => exact ⟨nofun, fun _ => congrArg ([·]) (encodeRPK_fields hop)⟩
  case h_14 hop => exact ⟨nofun, fun _ => congrArg ([·]) (encodePI_fields hop)⟩
  case h_15 hop => exact decodeBranch_writtenAs hop
  case h_16 =>
    have hop : w.extractLsb' 0 4 = 0xF#4 := by
      simp only [imp_false] at *
      bv_omega
    exact decodeGroup15_writtenAs hop

theorem wellFormed_of_ne_hlt (cfg : Config) {i : Instr} (hi : i ≠ .hlt) : i.wellFormed cfg = true := by
  cases i
  case hlt => exact absurd rfl hi
  all_goals rfl

theorem jump_ne_hlt (cond : Cond) (a : Word) : Instr.jump cond a ≠ .hlt := by cases cond <;> exact nofun
theorem callTo_ne_hlt (cond : Cond) (a : Word) : Instr.callTo cond a ≠ .hlt := by cases cond <;> exact nofun

/-- Settles O3: by the three ways of decoding; a first word is written again with its own fields. -/
theorem encodeOfDecode : Obligations.EncodeOfDecode := by
  unfold Obligations.EncodeOfDecode
  intro cfg words rest i h
  obtain ⟨w, rfl, hw, rfl⟩ | ⟨w, rfl, hfirst⟩ | ⟨w, cond, a, rfl, ⟨hfirst, rfl⟩ | ⟨hfirst, rfl⟩⟩ := decode_ok_cases h
  all_goals have hwritten := decodeFirst_writtenAs w
  case inl => exact ⟨by simp [encode, hw], by simp [Instr.wellFormed, hw]⟩
  case inr.inl =>
    rw [hfirst] at hwritten
    obtain ⟨hne, henc⟩ := hwritten
    exact ⟨by rw [henc]; rfl, wellFormed_of_ne_hlt cfg hne⟩
  all_goals rw [hfirst] at hwritten
  case inr.inr.inl =>
    have hw : encodeConditional cond 0b0010 = w := hwritten
    exact ⟨by rw [encode_jump, hw]; rfl, wellFormed_of_ne_hlt cfg (jump_ne_hlt cond a)⟩
  case inr.inr.inr =>
    have hw : encodeConditional cond 0b0001 = w := hwritten
    exact ⟨by rw [encode_callTo, hw]; rfl, wellFormed_of_ne_hlt cfg (callTo_ne_hlt cond a)⟩

end Sys2Proof

/-! PROOFS. The opcode table (30_encoding.md R109) and the unallocated words (R102): a first word is refused by the decoder exactly when no row covers it, and exactly when the list holds it. -/

namespace Sys2Proof

open Sys2Proof.Machine

/-! ### Sample words (O1) -/

theorem decode_of_encode_eq {i : Instr} {words : List Word} (henc : encode Config.default i = words)
    (hi : i.wellFormed Config.default = true) : decode Config.default words = .ok i [] := by
  have h := decode_encode (cfg := Config.default) (by decide) hi []
  rwa [List.append_nil, henc] at h

/-- Settles O1: each word is the encoding of its instruction, written out. -/
theorem sampleWordsDecodeAsTheSpecSays : Obligations.SampleWordsDecodeAsTheSpecSays := by
  unfold Obligations.SampleWordsDecodeAsTheSpecSays
  iterate 22 refine ⟨decode_of_encode_eq rfl rfl, ?_⟩
  exact decode_of_encode_eq rfl rfl

/-! ### The mnemonic of a first word -/

/-- The mnemonic that a first word selects; the address of Type A has no part in it. -/
def FirstWord.mnemonic : FirstWord → Option String
  | .one i => some i.mnemonic
  | .jump cond => some (Instr.jump cond 0).mnemonic
  | .call cond => some (Instr.callTo cond 0).mnemonic
  | .unallocated => none

theorem mnemonic_jump (cond : Cond) (a b : Word) : (Instr.jump cond a).mnemonic = (Instr.jump cond b).mnemonic := by
  cases cond <;> rfl

theorem mnemonic_callTo (cond : Cond) (a b : Word) : (Instr.callTo cond a).mnemonic = (Instr.callTo cond b).mnemonic := by
  cases cond <;> rfl

/-- With a second word at hand, a word decodes to a mnemonic exactly when it selects that mnemonic. -/
theorem decodes_to_mnemonic_iff {cfg : Config} {w : Word} (hw : cfg.hltWord ≠ some w) (a : Word) (m : String) :
    (∃ i rest, decode cfg [w, a] = .ok i rest ∧ i.mnemonic = m) ↔ (decodeFirst w).mnemonic = some m := by
  cases hfirst : decodeFirst w with
  | one i => simp [decode_one hw hfirst, FirstWord.mnemonic]
  | jump cond => simp [decode_jump hw hfirst, FirstWord.mnemonic, mnemonic_jump cond a 0]
  | call cond => simp [decode_call hw hfirst, FirstWord.mnemonic, mnemonic_callTo cond a 0]
  | unallocated => simp [(decode_illegal_iff hw [a]).2 hfirst, FirstWord.mnemonic]

/-! ### From the row to the decoder -/

theorem covers_iff {row : TableRow} {w : Word} : row.covers w = true ↔ w &&& row.mask = row.pattern := by
  simp [TableRow.covers]

/-- A field that lies under the mask of a row stands in every word of the row as in its pattern. -/
theorem extract_of_covers {row : TableRow} {w : Word} {start len : Nat} {v : BitVec len} (h : row.covers w = true)
    (hmask : row.mask.extractLsb' start len = BitVec.allOnes len) (hv : row.pattern.extractLsb' start len = v) :
    w.extractLsb' start len = v := by
  have hfield := congrArg (BitVec.extractLsb' start len) (covers_iff.1 h)
  rwa [BitVec.extractLsb'_and, hmask, BitVec.and_allOnes, hv] at hfield

/-- A row without operands covers its pattern alone. -/
theorem eq_pattern_of_covers {row : TableRow} {w : Word} (h : row.covers w = true) (hmask : row.mask = 0xFFFF) :
    w = row.pattern := by
  rw [← covers_iff.1 h, hmask, and_fullMask]

/-- Every word of a row selects the mnemonic of the row. -/
def TableRow.ReadAsNamed (row : TableRow) : Prop :=
  ∀ w : Word, row.covers w = true → (decodeFirst w).mnemonic = some row.mnemonic

theorem readAsNamed_of_fullMask {row : TableRow} (hmask : row.mask = 0xFFFF)
    (hread : (decodeFirst row.pattern).mnemonic = some row.mnemonic) : row.ReadAsNamed :=
  fun _ h => eq_pattern_of_covers h hmask ▸ hread

/-! One lemma per decoding group: the fields under the mask lead the decoder to the instruction of the row. -/

theorem opcodeRows_readAsNamed : ∀ row ∈ tableRowsRI ++ tableRowsRIO ++ tableRowsRPK ++ tableRowsPI, row.ReadAsNamed := by
  simp only [tableRowsRI, tableRowsRIO, tableRowsRPK, tableRowsPI, List.cons_append, List.nil_append, List.forall_mem_cons]
  refine ⟨?_, ?_, ?_, ?_, ?_, ?_, ?_, ?_, ?_, ?_, ?_, ?_, List.forall_mem_nil _⟩
  all_goals
    intro w h
    have hop := extract_of_covers (start := 0) (len := 4) h rfl rfl
    simp [decodeFirst, hop, FirstWord.mnemonic, Instr.mnemonic]

theorem tableRowsRR_readAsNamed : ∀ row ∈ tableRowsRR, row.ReadAsNamed := by
  simp only [tableRowsRR, List.forall_mem_cons]
  refine ⟨?_, ?_, ?_, ?_, ?_, ?_, ?_, ?_, ?_, List.forall_mem_nil _⟩
  all_goals
    intro w h
    have hop := extract_of_covers (start := 0) (len := 4) h rfl rfl
    have hfn := extract_of_covers (start := 4) (len := 4) h rfl rfl
    simp [decodeFirst, decodeGroup10, hop, hfn, FirstWord.mnemonic, Instr.mnemonic]

theorem tableRowsRP_readAsNamed : ∀ row ∈ tableRowsRP, row.ReadAsNamed := by
  simp only [tableRowsRP, List.forall_mem_cons]
  refine ⟨?_, ?_, ?_, ?_, List.forall_mem_nil _⟩
  all_goals
    intro w h
    have hop := extract_of_covers (start := 0) (len := 4) h rfl rfl
    have hfn := extract_of_covers (start := 4) (len := 4) h rfl rfl
    have h8 := extract_of_covers (start := 8) (len := 1) h rfl rfl
    simp [decodeFirst, decodeGroup10, hop, hfn, h8, FirstWord.mnemonic, Instr.mnemonic]

theorem tableRowsBranch_readAsNamed : ∀ row ∈ tableRowsBranch, row.ReadAsNamed := by
  simp only [tableRowsBranch, List.forall_mem_cons]
  refine ⟨?_, ?_, ?_, ?_, ?_, ?_, ?_, List.forall_mem_nil _⟩
  all_goals
    intro w h
    have hop := extract_of_covers (start := 0) (len := 4) h rfl rfl
    have hsel := extract_of_covers (start := 13) (len := 3) h rfl rfl
    simp [decodeFirst, decodeBranch, hop, hsel, Cond.ofSelector, Instr.branch, FirstWord.mnemonic, Instr.mnemonic]

theorem tableRowsR_readAsNamed : ∀ row ∈ tableRowsR, row.ReadAsNamed := by
  simp only [tableRowsR, List.forall_mem_cons]
  refine ⟨?_, ?_, ?_, ?_, ?_, ?_, ?pop, List.forall_mem_nil _⟩
  case pop =>
    intro w h
    have hop := extract_of_covers (start := 0) (len := 4) h rfl rfl
    have hfix := extract_of_covers (start := 4) (len := 8) h rfl rfl
    have hne : w ≠ 0#16 := by rintro rfl; exact absurd hfix (by decide)
    simp [decodeFirst, decodeGroup0, hop, hfix, hne, FirstWord.mnemonic, Instr.mnemonic]
  all_goals
    intro w h
    have hop := extract_of_covers (start := 0) (len := 4) h rfl rfl
    have hfn := extract_of_covers (start := 4) (len := 4) h rfl rfl
    have hfix := extract_of_covers (start := 8) (len := 4) h rfl rfl
    simp [decodeFirst, decodeGroup15, decodeTypeR, hop, hfn, hfix, FirstWord.mnemonic, Instr.mnemonic]

theorem tableRowsP_readAsNamed : ∀ row ∈ tableRowsP, row.ReadAsNamed := by
  simp only [tableRowsP, List.forall_mem_cons]
  refine ⟨?_, ?_, ?_, ?_, ?_, ?_, ?_, List.forall_mem_nil _⟩
  all_goals
    intro w h
    have hop := extract_of_covers (start := 0) (len := 4) h rfl rfl
    have hfn := extract_of_covers (start := 4) (len := 4) h rfl rfl
    have h8 := extract_of_covers (start := 8) (len := 1) h rfl rfl
    have h12 := extract_of_covers (start := 12) (len := 1) h rfl rfl
    have hsel := extract_of_covers (start := 13) (len := 3) h rfl rfl
    simp [decodeFirst, decodeGroup15, decodeIndirect, hop, hfn, h8, h12, hsel, Cond.ofSelector, Instr.indirect, FirstWord.mnemonic,
      Instr.mnemonic]

/-- The rows of Type A and of Type No Args, which have no operand in the first word. -/
theorem fullMaskRows_readAsNamed : ∀ row ∈ tableRowsA ++ tableRowsNoArgs, row.ReadAsNamed := by
  have hmask : ∀ row ∈ tableRowsA ++ tableRowsNoArgs, row.mask = 0xFFFF := by decide
  have hread : ∀ row ∈ tableRowsA ++ tableRowsNoArgs, (decodeFirst row.pattern).mnemonic = some row.mnemonic := by decide
  exact fun row hrow => readAsNamed_of_fullMask (hmask row hrow) (hread row hrow)

theorem tableRowsM_readAsNamed : ∀ row ∈ tableRowsM, row.ReadAsNamed := by
  simp only [tableRowsM, List.forall_mem_cons]
  refine ⟨?_, ?_, List.forall_mem_nil _⟩
  all_goals
    intro w h
    have hop := extract_of_covers (start := 0) (len := 4) h rfl rfl
    have hfn := extract_of_covers (start := 4) (len := 4) h rfl rfl
    have hfix := extract_of_covers (start := 12) (len := 4) h rfl rfl
    simp [decodeFirst, decodeGroup15, hop, hfn, hfix, FirstWord.mnemonic, Instr.mnemonic]

theorem tableRowsPP_readAsNamed : ∀ row ∈ tableRowsPP, row.ReadAsNamed := by
  simp only [tableRowsPP, List.forall_mem_cons]
  refine ⟨?_, List.forall_mem_nil _⟩
  intro w h
  have hop := extract_of_covers (start := 0) (len := 4) h rfl rfl
  have hfn := extract_of_covers (start := 4) (len := 4) h rfl rfl
  have h8 := extract_of_covers (start := 8) (len := 1) h rfl rfl
  have h12 := extract_of_covers (start := 12) (len := 1) h rfl rfl
  simp [decodeFirst, decodeGroup15, hop, hfn, h8, h12, FirstWord.mnemonic, Instr.mnemonic]

theorem opcodeTable_readAsNamed : ∀ row ∈ opcodeTable, row.ReadAsNamed := by
  have hopcode := opcodeRows_readAsNamed
  have hfull := fullMaskRows_readAsNamed
  simp only [List.forall_mem_append, and_assoc] at hopcode hfull
  obtain ⟨hRI, hRIO, hRPK, hPI⟩ := hopcode
  obtain ⟨hA, hNoArgs⟩ := hfull
  simp only [opcodeTable, List.forall_mem_append, and_assoc]
  exact ⟨hRI, hRIO, tableRowsRR_readAsNamed, tableRowsRP_readAsNamed, hRPK, hPI, tableRowsBranch_readAsNamed, tableRowsR_readAsNamed,
    tableRowsP_readAsNamed, hA, hNoArgs, tableRowsM_readAsNamed, tableRowsPP_readAsNamed⟩

/-! ### From the decoder to the row -/

/-- An answer other than "unallocated" is an instruction whose words begin with the word read. -/
theorem exists_instr_of_allocated {w : Word} (h : decodeFirst w ≠ .unallocated) :
    ∃ i, i ≠ .hlt ∧ (encode Config.default i).head? = some w := by
  have hwritten := decodeFirst_writtenAs w
  cases hfirst : decodeFirst w with
  | one i =>
    rw [hfirst] at hwritten
    obtain ⟨hne, henc⟩ := hwritten
    exact ⟨i, hne, by rw [henc]; rfl⟩
  | jump cond =>
    rw [hfirst] at hwritten
    exact ⟨.jump cond 0, jump_ne_hlt cond 0, by rw [encode_jump]; exact congrArg some hwritten⟩
  | call cond =>
    rw [hfirst] at hwritten
    exact ⟨.callTo cond 0, callTo_ne_hlt cond 0, by rw [encode_callTo]; exact congrArg some hwritten⟩
  | unallocated => exact absurd hfirst h

theorem unallocated_eq_false_iff {w : Word} : unallocated w = false ↔ ∃ row ∈ opcodeTable, row.covers w = true := by
  simp [unallocated, List.all_eq_false]

/-- The decoder refuses exactly the words that no row covers (R102). -/
theorem decodeFirst_unallocated_iff {w : Word} : decodeFirst w = .unallocated ↔ unallocated w = true := by
  constructor
  · intro h
    by_contra hrow
    obtain ⟨row, hmem, hcov⟩ := unallocated_eq_false_iff.1 (Bool.eq_false_iff.2 hrow)
    have hread := opcodeTable_readAsNamed row hmem w hcov
    rw [h] at hread
    cases hread
  · intro hrow
    by_contra h
    obtain ⟨i, hne, hhead⟩ := exists_instr_of_allocated h
    obtain ⟨v, hv, -, hfree⟩ := encode_first Config.default hne
    obtain rfl := Option.some.inj (hhead.symm.trans hv)
    exact Bool.false_ne_true (hfree.symm.trans hrow)

theorem opcodeTable_mnemonics_nodup : (opcodeTable.map TableRow.mnemonic).Nodup := by decide

/-- A row covers exactly the words that select its mnemonic. -/
theorem covers_iff_mnemonic {row : TableRow} (hmem : row ∈ opcodeTable) (w : Word) :
    row.covers w = true ↔ (decodeFirst w).mnemonic = some row.mnemonic := by
  refine ⟨opcodeTable_readAsNamed row hmem w, fun hread => ?_⟩
  have hne : decodeFirst w ≠ .unallocated := by
    intro h
    rw [h] at hread
    cases hread
  have hfree : unallocated w = false := Bool.eq_false_iff.2 fun h => hne (decodeFirst_unallocated_iff.2 h)
  obtain ⟨row', hmem', hcov⟩ := unallocated_eq_false_iff.1 hfree
  have hname : row'.mnemonic = row.mnemonic :=
    Option.some.inj ((opcodeTable_readAsNamed row' hmem' w hcov).symm.trans hread)
  obtain rfl := List.inj_on_of_nodup_map opcodeTable_mnemonics_nodup hmem' hmem hname
  exact hcov

/-! ### No word has two rows -/

/-- Two rows that differ in a bit which both fix have no word in common. -/
theorem not_covers_of_clash {r q : TableRow} (h : r.pattern &&& q.mask ≠ q.pattern &&& r.mask) (w : Word)
    (hr : r.covers w = true) : q.covers w = false := by
  by_contra hq
  rw [Bool.not_eq_false] at hq
  apply h
  rw [← covers_iff.1 hr, ← covers_iff.1 hq, BitVec.and_assoc, BitVec.and_assoc, BitVec.and_comm r.mask]

theorem opcodeTable_clash : opcodeTable.Pairwise fun r q => r.pattern &&& q.mask ≠ q.pattern &&& r.mask := by decide

/-- Settles O4: a row covers the words that select its mnemonic; two rows clash in a fixed bit. -/
theorem decoderAgreesWithTheOpcodeTable : Obligations.DecoderAgreesWithTheOpcodeTable := by
  unfold Obligations.DecoderAgreesWithTheOpcodeTable
  refine ⟨fun cfg w a hw row hmem => ?_, opcodeTable_clash.imp not_covers_of_clash, rfl⟩
  rw [covers_iff_mnemonic hmem, decodes_to_mnemonic_iff hw]

end Sys2Proof

/-! PROOFS. The list of unallocated words (30_encoding.md R102) against the decoder, group by group: each refusal of the decoding procedure is one bit condition of the list. -/

namespace Sys2Proof

open Sys2Proof.Machine

/-! ### The fields that the list and the decoder name differently -/

theorem extract_one {n : Nat} (x : BitVec n) (j : Nat) : x.extractLsb' j 1 = BitVec.ofBool (x.getLsbD j) := by
  ext k hk
  obtain rfl : k = 0 := by omega
  simp

theorem getLsbD_iff_extract (w : Word) (j : Nat) : w.getLsbD j = true ↔ w.extractLsb' j 1 ≠ 0 := by
  rw [extract_one]
  cases w.getLsbD j <;> simp

/-- The fixed bits 0 1110 of R99 are bit 12 and bits 11 to 8. -/
theorem fixedBits_iff (w : Word) : w.extractLsb' 8 5 = 0b01110 ↔ w.extractLsb' 12 1 = 0 ∧ w.extractLsb' 8 4 = 0b1110#4 := by
  have hglue : w.extractLsb' 12 1 ++ w.extractLsb' 8 4 = w.extractLsb' 8 5 := extract_glue w 8 4 1
  have hfields : ∀ (a : BitVec 1) (b : BitVec 4), a ++ b = 0b01110#5 ↔ a = 0 ∧ b = 0b1110#4 := by decide
  rw [← hglue]
  exact hfields _ _

/-- Bits 7 and 6 are the high half of the function. -/
theorem extract_function_high (w : Word) : w.extractLsb' 6 2 = (w.extractLsb' 4 4).extractLsb' 2 2 := by
  ext k hk
  simp [show 4 + (2 + k) = 6 + k by omega, show 2 + k < 4 by omega]

theorem ofSelector_eq_none_iff : ∀ ccc : BitVec 3, Cond.ofSelector ccc = none ↔ ccc = 0b111 := by decide

/-! ### What the list says of each group -/

/-- R102, group 0. -/
theorem listed_group0 {w : Word} (hop : w.extractLsb' 0 4 = 0x0#4) :
    listedUnallocated w ↔ w ≠ 0 ∧ w.extractLsb' 4 8 ≠ 0xE2 := by
  simp [listedUnallocated, hop]

/-- R102, group 10, by the function `w[7:4]` and bit 8. -/
theorem listed_group10 {w : Word} {fn : BitVec 4} (hop : w.extractLsb' 0 4 = 0xA#4) (hfn : w.extractLsb' 4 4 = fn) :
    listedUnallocated w ↔ (fn = 0x0 ∨ fn = 0xA ∨ fn = 0xB) ∨ (fn.extractLsb' 2 2 = 0b11 ∧ w.extractLsb' 8 1 ≠ 0) := by
  simp only [listedUnallocated, getLsbD_iff_extract, extract_function_high]
  simp [hop, hfn, or_assoc]

/-- R102, Type Branch. -/
theorem listed_group14 {w : Word} (hop : w.extractLsb' 0 4 = 0xE#4) : listedUnallocated w ↔ w.extractLsb' 13 3 = 0b111 := by
  simp [listedUnallocated, hop]

/-- R102, group 15. -/
theorem listed_group15 {w : Word} {fn : BitVec 4} (hop : w.extractLsb' 0 4 = 0xF#4) (hfn : w.extractLsb' 4 4 = fn) :
    listedUnallocated w ↔
      fn = 0x0 ∨ ((fn = 0x1 ∨ fn = 0x2 ∨ fn = 0x4) ∧
        (w.extractLsb' 13 3 = 0b111 ∨ w.extractLsb' 12 1 ≠ 0 ∨ w.extractLsb' 8 4 ≠ 0b1110)) ∨
      (fn = 0x3 ∧ (w.extractLsb' 13 3 = 0b111 ∨ w.extractLsb' 12 1 ≠ 0 ∨ w.extractLsb' 8 1 ≠ 0)) ∨
      ((fn = 0x5 ∨ fn = 0x6) ∧ w.extractLsb' 8 8 ≠ 0x0E) ∨
      ((fn = 0x7 ∨ fn = 0x8) ∧ w.extractLsb' 12 4 ≠ 0) ∨
      (fn = 0x9 ∧ (w.extractLsb' 12 1 ≠ 0 ∨ w.extractLsb' 8 1 ≠ 0)) ∨
      (10 ≤ fn.toNat ∧ w.extractLsb' 8 4 ≠ 0) := by
  simp only [listedUnallocated, getLsbD_iff_extract]
  simp [hop, hfn]

/-! ### What the decoder refuses in each group -/

theorem decodeGroup0_unallocated_iff {w : Word} : decodeGroup0 w = .unallocated ↔ w ≠ 0 ∧ w.extractLsb' 4 8 ≠ 0xE2 := by
  unfold decodeGroup0
  split
  case isTrue h => simp [h]
  case isFalse h => simp [show w ≠ 0#16 from h]

theorem decodeGroup10_unallocated_iff {w : Word} (hop : w.extractLsb' 0 4 = 0xA#4) :
    decodeGroup10 w = .unallocated ↔ listedUnallocated w := by
  unfold decodeGroup10
  dsimp only
  split
  case h_1 hfn | h_2 hfn | h_3 hfn | h_4 hfn | h_5 hfn | h_6 hfn | h_7 hfn | h_8 hfn | h_9 hfn =>
    simp [listed_group10 hop hfn]
  case h_10 hfn | h_11 hfn | h_12 hfn | h_13 hfn => simp [listed_group10 hop hfn]
  case h_14 =>
    have hfn : w.extractLsb' 4 4 = 0x0#4 ∨ w.extractLsb' 4 4 = 0xA#4 ∨ w.extractLsb' 4 4 = 0xB#4 := by
      simp only [imp_false] at *
      bv_omega
    exact iff_of_true rfl ((listed_group10 hop rfl).2 (.inl hfn))

theorem selected_unallocated_iff {ccc : BitVec 3} {build : Cond → FirstWord} (hbuild : ∀ cond, build cond ≠ .unallocated) :
    selected ccc build = .unallocated ↔ ccc = 0b111 := by
  rw [← ofSelector_eq_none_iff, selected]
  cases Cond.ofSelector ccc <;> simp [hbuild]

theorem decodeBranch_unallocated_iff {w : Word} : decodeBranch w = .unallocated ↔ w.extractLsb' 13 3 = 0b111 := by
  rw [decodeBranch_eq_selected, selected_unallocated_iff fun _ => FirstWord.noConfusion]

theorem decodeConditional_unallocated_iff {w : Word} {build : Cond → FirstWord} (hbuild : ∀ cond, build cond ≠ .unallocated) :
    decodeConditional w build = .unallocated ↔
      w.extractLsb' 13 3 = 0b111 ∨ w.extractLsb' 12 1 ≠ 0 ∨ w.extractLsb' 8 4 ≠ 0b1110 := by
  by_cases hfix : w.extractLsb' 8 5 = 0b01110
  · obtain ⟨h12, h8⟩ := (fixedBits_iff w).1 hfix
    rw [decodeConditional_eq_selected hfix, selected_unallocated_iff hbuild]
    simp [h12, h8]
  · refine iff_of_true (if_neg hfix) (.inr ?_)
    rwa [fixedBits_iff, not_and_or] at hfix

theorem decodeIndirect_unallocated_iff {w : Word} :
    decodeIndirect w = .unallocated ↔ w.extractLsb' 13 3 = 0b111 ∨ w.extractLsb' 12 1 ≠ 0 ∨ w.extractLsb' 8 1 ≠ 0 := by
  by_cases hfix : w.extractLsb' 12 1 = 0 ∧ w.extractLsb' 8 1 = 0
  · rw [decodeIndirect_eq_selected hfix.1 hfix.2, selected_unallocated_iff fun _ => FirstWord.noConfusion]
    simp [hfix.1, hfix.2]
  · exact iff_of_true (if_neg hfix) (.inr (not_and_or.1 hfix))

theorem decodeTypeR_unallocated_iff {w : Word} {build : RegNum → Instr} :
    decodeTypeR w build = .unallocated ↔ w.extractLsb' 8 4 ≠ 0 := by
  simp [decodeTypeR]

theorem decodeGroup15_unallocated_iff {w : Word} (hop : w.extractLsb' 0 4 = 0xF#4) :
    decodeGroup15 w = .unallocated ↔ listedUnallocated w := by
  unfold decodeGroup15
  split
  case h_1 hfn | h_2 hfn | h_4 hfn => simp [listed_group15 hop hfn, decodeConditional_unallocated_iff]
  case h_3 hfn => simp [listed_group15 hop hfn, decodeIndirect_unallocated_iff]
  case h_5 hfn | h_6 hfn | h_7 hfn | h_8 hfn => simp [listed_group15 hop hfn]
  case h_9 hfn => simp [listed_group15 hop hfn, imp_iff_not_or]
  case h_10 hfn | h_11 hfn | h_12 hfn | h_13 hfn | h_14 hfn | h_15 hfn =>
    simp [listed_group15 hop hfn, decodeTypeR_unallocated_iff]
  case h_16 =>
    have hfn : w.extractLsb' 4 4 = 0x0#4 := by
      simp only [imp_false] at *
      bv_omega
    exact iff_of_true rfl ((listed_group15 hop hfn).2 (.inl rfl))

/-- The decoder refuses exactly the words of the list. -/
theorem decodeFirst_unallocated_iff_listed (w : Word) : decodeFirst w = .unallocated ↔ listedUnallocated w := by
  unfold decodeFirst
  dsimp only
  split
  case h_1 hop => rw [decodeGroup0_unallocated_iff, listed_group0 hop]
  case h_11 hop => exact decodeGroup10_unallocated_iff hop
  case h_15 hop => rw [decodeBranch_unallocated_iff, listed_group14 hop]
  case h_16 =>
    have hop : w.extractLsb' 0 4 = 0xF#4 := by
      simp only [imp_false] at *
      bv_omega
    exact decodeGroup15_unallocated_iff hop
  all_goals
    rename_i hop
    simp [listedUnallocated, hop]

/-- Settles O5: the decoder refuses the words of the list, and those are the words that no row covers. -/
theorem unallocatedWordsAreThoseListed : Obligations.UnallocatedWordsAreThoseListed := by
  unfold Obligations.UnallocatedWordsAreThoseListed
  refine ⟨fun cfg w rest hw => ?_, fun w => ?_⟩
  · rw [decode_illegal_iff hw, decodeFirst_unallocated_iff_listed]
  · rw [← decodeFirst_unallocated_iff, decodeFirst_unallocated_iff_listed]

end Sys2Proof

/-! PROOFS. The step (60_exceptions.md R245, R255): what it fetches, where it faults before any instruction runs, and what a fault leaves. Runs are taken apart by one induction, `run_induct`. -/

namespace Sys2Proof

open Sys2Proof.Machine

/-! ### Instructions by family -/

/-- Case analysis that keeps each conditional family together: a claim about every instruction is one about each of the five families on any condition and about each other constructor. -/
theorem Instr.byFamily {motive : Instr → Prop}
    (branch : ∀ cond a, motive (.branch cond a)) (indirect : ∀ cond p, motive (.indirect cond p))
    (jump : ∀ cond a, motive (.jump cond a)) (callTo : ∀ cond a, motive (.callTo cond a)) (returnOn : ∀ cond, motive (.returnOn cond))
    (ldi : ∀ (rd : RegNum) (i : Byte), motive (.ldi rd i)) (ani : ∀ (rd : RegNum) (i : Byte), motive (.ani rd i))
    (ori : ∀ (rd : RegNum) (i : Byte), motive (.ori rd i)) (xoi : ∀ (rd : RegNum) (i : Byte), motive (.xoi rd i))
    (adi : ∀ (rd : RegNum) (i : Byte), motive (.adi rd i)) (aci : ∀ (rd : RegNum) (i : Byte), motive (.aci rd i))
    (cpi : ∀ (rd : RegNum) (i : Byte), motive (.cpi rd i)) (inp : ∀ (rd : RegNum) (io : Byte), motive (.inp rd io))
    (out : ∀ (rs : RegNum) (io : Byte), motive (.out rs io)) (mov : ∀ rd rs : RegNum, motive (.mov rd rs))
    (and : ∀ rd rs : RegNum, motive (.and rd rs)) (or : ∀ rd rs : RegNum, motive (.or rd rs))
    (xor : ∀ rd rs : RegNum, motive (.xor rd rs)) (add : ∀ rd rs : RegNum, motive (.add rd rs))
    (adc : ∀ rd rs : RegNum, motive (.adc rd rs)) (cmp : ∀ rd rs : RegNum, motive (.cmp rd rs))
    (sub : ∀ rd rs : RegNum, motive (.sub rd rs)) (sbb : ∀ rd rs : RegNum, motive (.sbb rd rs))
    (sri : ∀ (rs : RegNum) (p : PairNum), motive (.sri rs p)) (srd : ∀ (rs : RegNum) (p : PairNum), motive (.srd rs p))
    (lri : ∀ (rd : RegNum) (p : PairNum), motive (.lri rd p)) (lrd : ∀ (rd : RegNum) (p : PairNum), motive (.lrd rd p))
    (str : ∀ (rs : RegNum) (p : PairNum) (k : BitVec 5), motive (.str rs p k))
    (ldr : ∀ (rd : RegNum) (p : PairNum) (k : BitVec 5), motive (.ldr rd p k))
    (api : ∀ (p : PairNum) (i : BitVec 9), motive (.api p i)) (sll : ∀ rd : RegNum, motive (.sll rd))
    (srl : ∀ rd : RegNum, motive (.srl rd)) (sra : ∀ rd : RegNum, motive (.sra rd)) (rlc : ∀ rd : RegNum, motive (.rlc rd))
    (rrc : ∀ rd : RegNum, motive (.rrc rd)) (not : ∀ rd : RegNum, motive (.not rd)) (pop : ∀ rd : RegNum, motive (.pop rd))
    (pus : motive .pus) (pos : motive .pos) (nop : motive .nop) (hlt : motive .hlt) (ssr : ∀ m : BitVec 4, motive (.ssr m))
    (csr : ∀ m : BitVec 4, motive (.csr m)) (mvp : ∀ pd ps : PairNum, motive (.mvp pd ps)) (i : Instr) : motive i := by
  cases i with
  | ldi rd i => exact ldi rd i
  | ani rd i => exact ani rd i
  | ori rd i => exact ori rd i
  | xoi rd i => exact xoi rd i
  | adi rd i => exact adi rd i
  | aci rd i => exact aci rd i
  | cpi rd i => exact cpi rd i
  | inp rd io => exact inp rd io
  | out rs io => exact out rs io
  | mov rd rs => exact mov rd rs
  | and rd rs => exact and rd rs
  | or rd rs => exact or rd rs
  | xor rd rs => exact xor rd rs
  | add rd rs => exact add rd rs
  | adc rd rs => exact adc rd rs
  | cmp rd rs => exact cmp rd rs
  | sub rd rs => exact sub rd rs
  | sbb rd rs => exact sbb rd rs
  | sri rs p => exact sri rs p
  | srd rs p => exact srd rs p
  | lri rd p => exact lri rd p
  | lrd rd p => exact lrd rd p
  | str rs p k => exact str rs p k
  | ldr rd p k => exact ldr rd p k
  | api p i => exact api p i
  | sll rd => exact sll rd
  | srl rd => exact srl rd
  | sra rd => exact sra rd
  | rlc rd => exact rlc rd
  | rrc rd => exact rrc rd
  | not rd => exact not rd
  | pop rd => exact pop rd
  | pus => exact pus
  | pos => exact pos
  | nop => exact nop
  | hlt => exact hlt
  | ssr m => exact ssr m
  | csr m => exact csr m
  | mvp pd ps => exact mvp pd ps
  | br a => exact branch .always a
  | bc a => exact branch .c a
  | bnc a => exact branch .nc a
  | bz a => exact branch .z a
  | bnz a => exact branch .nz a
  | bn a => exact branch .n a
  | bnn a => exact branch .nn a
  | jmpi p => exact indirect .always p
  | jci p => exact indirect .c p
  | jnci p => exact indirect .nc p
  | jzi p => exact indirect .z p
  | jnzi p => exact indirect .nz p
  | jni p => exact indirect .n p
  | jnni p => exact indirect .nn p
  | jmp a => exact jump .always a
  | jc a => exact jump .c a
  | jnc a => exact jump .nc a
  | jz a => exact jump .z a
  | jnz a => exact jump .nz a
  | jn a => exact jump .n a
  | jnn a => exact jump .nn a
  | call a => exact callTo .always a
  | cc a => exact callTo .c a
  | cnc a => exact callTo .nc a
  | cz a => exact callTo .z a
  | cnz a => exact callTo .nz a
  | cn a => exact callTo .n a
  | cnn a => exact callTo .nn a
  | ret => exact returnOn .always
  | rc => exact returnOn .c
  | rnc => exact returnOn .nc
  | rz => exact returnOn .z
  | rnz => exact returnOn .nz
  | rn => exact returnOn .n
  | rnn => exact returnOn .nn

theorem exec_branch (cond : Cond) (a : BitVec 9) (s : State) : exec (.branch cond a) s = relativeBranch cond a s := by
  cases cond <;> rfl

theorem exec_indirect (cond : Cond) (p : PairNum) (s : State) : exec (.indirect cond p) s = indirectJump cond p s := by
  cases cond <;> rfl

theorem exec_jump (cond : Cond) (a : Word) (s : State) : exec (.jump cond a) s = absoluteJump cond a s := by
  cases cond <;> rfl

theorem exec_callTo (cond : Cond) (a : Word) (s : State) : exec (.callTo cond a) s = absoluteCall cond a s := by
  cases cond <;> rfl

theorem exec_returnOn (cond : Cond) (s : State) : exec (.returnOn cond) s = subroutineReturn cond s := by
  cases cond <;> rfl

/-! ### Fetching -/

theorem fetchWords_of_mapped {s : State} {w : Word} (h : IMem.read s.imem s.pc.toNat = some w) :
    s.fetchWords = w :: (IMem.read s.imem (s.pc + 1).toNat).toList := by
  simp [State.fetchWords, State.imemRead, h]

theorem fetchDecode_of_unmapped {s : State} (h : IMem.read s.imem s.pc.toNat = none) : s.fetchDecode = .noWord := by
  simp [State.fetchDecode, State.fetchWords, State.imemRead, h, decode]

theorem fetchDecode_of_mapped {s : State} {w : Word} (h : IMem.read s.imem s.pc.toNat = some w) :
    s.fetchDecode = decode s.cfg (w :: (IMem.read s.imem (s.pc + 1).toNat).toList) := by
  rw [State.fetchDecode, fetchWords_of_mapped h]

/-- Settles O8: fetching gives the words at the pc, and a step that decodes an instruction is that instruction. -/
theorem stepRunsTheDecodedInstruction : Obligations.StepRunsTheDecodedInstruction := by
  unfold Obligations.StepRunsTheDecodedInstruction
  intro s w i rest hh hf hmapped hdecode
  exact step_of_decode hh hf ((fetchDecode_of_mapped hmapped).trans hdecode)

theorem step_of_unmapped {s : State} (hh : s.halted = false) (hf : s.fault = none) (h : IMem.read s.imem s.pc.toNat = none) :
    step s = .fault (.unmappedFetch s.pc) := by
  rw [step_running hh hf, fetchDecode_of_unmapped h]
  rfl

theorem step_of_illegal {s : State} {w : Word} (hh : s.halted = false) (hf : s.fault = none) (hd : s.fetchDecode = .illegal w) :
    step s = unallocatedWord w s := by
  rw [step_running hh hf, hd]

theorem unallocatedWord_strict {s : State} (h : s.cfg.strictDecode = true) (w : Word) :
    unallocatedWord w s = .fault (.illegalEncoding w s.pc) :=
  if_pos h

theorem step_of_noSecondWord {s : State} (hh : s.halted = false) (hf : s.fault = none) (hd : s.fetchDecode = .noSecondWord) :
    step s = .fault (.unmappedFetch (s.pc + 1)) := by
  rw [step_running hh hf, hd]
  rfl

/-- The first words of Type A, written as 30_encoding.md R93 writes them. -/
theorem decodeFirst_typeA {cond : Cond} {w : Word}
    (hw : w = cond.selector ++ 0b0111000101111#13 ∨ w = cond.selector ++ 0b0111000011111#13) :
    decodeFirst w = .jump cond ∨ decodeFirst w = .call cond := by
  obtain rfl | rfl := hw
  · exact .inl ((decodeFirst_jumpWord _).trans (selected_selector ..))
  · exact .inr ((decodeFirst_callWord _).trans (selected_selector ..))

/-- Settles O9: what the decoder answers for no word, for a word of the list, and for the first word of Type A alone. -/
theorem fetchAndDecodeFaultsInTheirOrder : Obligations.FetchAndDecodeFaultsInTheirOrder := by
  unfold Obligations.FetchAndDecodeFaultsInTheirOrder
  intro s hh hf
  refine ⟨step_of_unmapped hh hf, fun w hmapped hw hlisted hstrict => ?illegal, fun cond w htypeA hmapped hw hnext => ?second⟩
  case illegal =>
    have hd : s.fetchDecode = .illegal w := by
      rw [fetchDecode_of_mapped hmapped, decode_illegal_iff hw, decodeFirst_unallocated_iff_listed]
      exact hlisted
    rw [step_of_illegal hh hf hd, unallocatedWord_strict hstrict]
  case second =>
    have hd : s.fetchDecode = .noSecondWord := by
      rw [fetchDecode_of_mapped hmapped, hnext]
      exact decode_noSecondWord hw (decodeFirst_typeA htypeA)
    exact step_of_noSecondWord hh hf hd

/-! ### Runs -/

/-- A relation along runs: it holds of no step at all, and a step that answers extends it at the front. -/
theorem run_induct {P : Nat → State → State → Prop} (zero : ∀ s, P 0 s s)
    (succ : ∀ k s u t, step s = .next u → P k u t → P (k + 1) s t) :
    ∀ (k : Nat) (s t : State), Sys2Proof.core.run k s = .next t → P k s t := by
  intro k
  induction k with
  | zero =>
    intro s t h
    rw [run_zero] at h
    obtain rfl := Host.Outcome.next.inj h
    exact zero s
  | succ k ih =>
    intro s t h
    cases hs : step s with
    | next u => exact succ k s u t hs (ih u t (by rwa [run_succ_of_next hs] at h))
    | fault f =>
      rw [run_succ_of_fault hs] at h
      cases h
    | refused r =>
      have hs' : Sys2Proof.core.step s = .refused r := hs
      simp [Host.Core.run, hs'] at h

/-- A halted or faulted state is the end of every run from it (R255). -/
theorem run_stopped {s : State} (h : s.halted = true ∨ s.fault ≠ none) (k : Nat) : Sys2Proof.core.run k s = .next s := by
  induction k with
  | zero => rfl
  | succ k ih => rw [run_succ_of_next (step_stopped h), ih]

/-- Settles O10: the recorded step writes the fault record alone, and a state with a fault recorded takes no step. -/
theorem faultIsRecordedAndFinal : Obligations.FaultIsRecordedAndFinal := by
  unfold Obligations.FaultIsRecordedAndFinal
  intro s f hs
  have hrec : stepRecorded s = s.recordFault f := by simp [stepRecorded, hs]
  refine ⟨hrec, fun k => ?_⟩
  rw [hrec]
  exact run_stopped (.inr (by simp)) k

/-! ### Refusals -/

theorem transfer_ne_refused {cond : Cond} {target len : Word} {s : State} {r : Refusal} : transfer cond target len s ≠ .refused r := by
  unfold transfer
  split <;> exact nofun

theorem relativeBranch_ne_refused {cond : Cond} {a : BitVec 9} {s : State} {r : Refusal} : relativeBranch cond a s ≠ .refused r := by
  unfold relativeBranch
  split
  · exact transfer_ne_refused
  · exact nofun

theorem absoluteCall_ne_refused {cond : Cond} {a : Word} {s : State} {r : Refusal} : absoluteCall cond a s ≠ .refused r := by
  unfold absoluteCall
  split
  · exact orRaise_not_refused
  · exact nofun

theorem subroutineReturn_ne_refused {cond : Cond} {s : State} {r : Refusal} : subroutineReturn cond s ≠ .refused r := by
  unfold subroutineReturn
  split
  · exact orRaise_not_refused
  · exact nofun

theorem loadPost_ne_refused {rd : RegNum} {p : PairNum} {delta : Word} {s : State} {r : Refusal} :
    loadPost rd p delta s ≠ .refused r := by
  unfold loadPost
  split
  · exact nofun
  · exact orRaise_not_refused

theorem execStr_ne_refused {rs : RegNum} {p : PairNum} {k : BitVec 5} {s : State} {r : Refusal} : execStr rs p k s ≠ .refused r := by
  unfold execStr
  split
  · exact orRaise_not_refused
  · exact nofun

theorem execLdr_ne_refused {rd : RegNum} {p : PairNum} {k : BitVec 5} {s : State} {r : Refusal} : execLdr rd p k s ≠ .refused r := by
  unfold execLdr
  split
  · exact orRaise_not_refused
  · exact nofun

/-- No arm of exec refuses: every shape answers a next state or a fault. -/
theorem exec_ne_refused (i : Instr) (s : State) (r : Refusal) : exec i s ≠ .refused r := by
  cases i using Instr.byFamily
  case branch cond a => exact exec_branch cond a s ▸ relativeBranch_ne_refused
  case indirect cond p => exact exec_indirect cond p s ▸ transfer_ne_refused
  case jump cond a => exact exec_jump cond a s ▸ transfer_ne_refused
  case callTo cond a => exact exec_callTo cond a s ▸ absoluteCall_ne_refused
  case returnOn cond => exact exec_returnOn cond s ▸ subroutineReturn_ne_refused
  case sri | srd | api | pop | pus | pos => exact orRaise_not_refused
  case lri | lrd => exact loadPost_ne_refused
  case str => exact execStr_ne_refused
  case ldr => exact execLdr_ne_refused
  all_goals exact nofun

/-- Under STRICT_DECODE an unallocated word faults, so a step is never refused (R103). -/
theorem step_ne_refused {s : State} (hstrict : s.cfg.strictDecode = true) (r : Refusal) : step s ≠ .refused r := by
  unfold step
  split
  · exact nofun
  · split
    · exact exec_ne_refused _ s r
    · exact nofun
    · rw [unallocatedWord_strict hstrict]
      exact nofun
    · exact nofun

/-- Settles O11. -/
theorem nothingIsRefusedUnderStrictDecode : Obligations.NothingIsRefusedUnderStrictDecode := by
  unfold Obligations.NothingIsRefusedUnderStrictDecode
  exact fun s => ⟨fun i r => exec_ne_refused i s r, fun hstrict r => step_ne_refused hstrict r⟩

end Sys2Proof

/-! PROOFS. The faults of instructions (60_exceptions.md R241 (3) to (8)): when each is raised, and that nothing else is. -/

namespace Sys2Proof

open Sys2Proof.Machine

/-! ### When a field is ambiguous (R101) -/

/-- A field is refused exactly under `refuse_top_bit` with a value in the upper half. -/
theorem widen_error_iff_le {n : Nat} {ext : Extension} {v : BitVec n} {f : Fault} :
    widen ext v = .error f ↔ ext = .refuseTopBit ∧ 2 ^ (n - 1) ≤ v.toNat ∧ f = .ambiguousField := by
  rw [widen_error_iff, BitVec.msb_eq_decide]
  simp only [decide_eq_true_eq]

/-! ### The meanings that go through an offset address -/

theorem execStr_fault_iff {rs : RegNum} {p : PairNum} {k : BitVec 5} {s : State} {f : Fault} :
    execStr rs p k s = .fault f ↔
      (∃ addr, s.offsetAddress p k = .ok addr ∧ dataMapped s.cfg addr = false ∧ f = .unmappedData addr) ∨
        widen s.cfg.kOffset k = .error f := by
  rw [← offsetAddress_error_iff (p := p)]
  unfold execStr
  split <;> rename_i h <;> simp [h, orRaise_fault_iff, memWrite_error_iff, raise]

theorem execLdr_fault_iff {rd : RegNum} {p : PairNum} {k : BitVec 5} {s : State} {f : Fault} :
    execLdr rd p k s = .fault f ↔
      (∃ addr, s.offsetAddress p k = .ok addr ∧ dataMapped s.cfg addr = false ∧ f = .unmappedData addr) ∨
        widen s.cfg.kOffset k = .error f := by
  rw [← offsetAddress_error_iff (p := p)]
  unfold execLdr
  split <;> rename_i h <;> simp [h, orRaise_fault_iff, memRead_error_iff, raise]

theorem execApi_fault_iff {p : PairNum} {i : BitVec 9} {s : State} {f : Fault} :
    execApi p i s = .fault f ↔ widen s.cfg.apiImm i = .error f :=
  orRaise_fault_iff

theorem execPus_fault_iff {s : State} {f : Fault} :
    execPus s = .fault f ↔ s.cfg.stackDepth ≤ s.stk.length ∧ f = .stackOverflow := by
  rw [execPus, orRaise_fault_iff, push_error_iff]

theorem execPos_fault_iff {s : State} {f : Fault} :
    execPos s = .fault f ↔ (s.stk = [] ∧ f = .stackUnderflow) ∨
      ∃ top rest, s.stk = top :: rest ∧ (∀ v, top ≠ .stat v) ∧ f = .stackKindMismatch := by
  simp only [execPos, orRaise_fault_iff, pop_error_iff, asStat_none_iff]

theorem execPop_fault_iff {rd : RegNum} {s : State} {f : Fault} :
    execPop rd s = .fault f ↔ (s.stk = [] ∧ f = .stackUnderflow) ∨
      ∃ top rest, s.stk = top :: rest ∧ (∀ b, top ≠ .byte b) ∧ f = .stackKindMismatch := by
  simp only [execPop, orRaise_fault_iff, pop_error_iff, asByte_none_iff]

theorem not_mem_pairRegs {r : RegNum} {p : PairNum} : r ∉ pairRegs p ↔ inPair r p = false := by
  rw [mem_pairRegs, Bool.not_eq_true]

/-! ### The obligations -/

/-- The situations of R241 (3) to (8), one constructor for each, with the instructions that meet them. -/
inductive FaultCase (i : Instr) (s : State) : Fault → Prop where
  | unmappedPair (r : RegNum) (p : PairNum) (hi : i = .sri r p ∨ i = .srd r p ∨ ((i = .lri r p ∨ i = .lrd r p) ∧ r ∉ pairRegs p))
      (hm : dataMapped s.cfg (s.readPair p) = false) : FaultCase i s (.unmappedData (s.readPair p))
  | unmappedOffset (r : RegNum) (p : PairNum) (k : BitVec 5) (a : Word) (hi : i = .str r p k ∨ i = .ldr r p k)
      (ha : s.offsetAddress p k = .ok a) (hm : dataMapped s.cfg a = false) : FaultCase i s (.unmappedData a)
  | overflow (hi : (∃ cond a, i = .callTo cond a ∧ s.cond cond = true) ∨ i = .pus) (hl : s.cfg.stackDepth ≤ s.stk.length) :
      FaultCase i s .stackOverflow
  | underflow (hi : (∃ cond, i = .returnOn cond ∧ s.cond cond = true) ∨ i = .pos ∨ ∃ rd, i = .pop rd) (hs : s.stk = []) :
      FaultCase i s .stackUnderflow
  | mismatch (top : StackItem) (rest : List StackItem) (hs : s.stk = top :: rest)
      (hi : (∃ cond, i = .returnOn cond ∧ s.cond cond = true ∧ ∀ a, top ≠ .ret a) ∨ (i = .pos ∧ ∀ v, top ≠ .stat v) ∨
        ((∃ rd, i = .pop rd) ∧ ∀ b, top ≠ .byte b)) : FaultCase i s .stackKindMismatch
  | overlap (rd : RegNum) (p : PairNum) (hi : i = .lri rd p ∨ i = .lrd rd p) (hr : rd ∈ pairRegs p) : FaultCase i s .registerOverlap
  | ambiguous (hi : (∃ cond a, i = .branch cond a ∧ s.cfg.brOffset = .refuseTopBit ∧ 256 ≤ a.toNat) ∨
      (∃ r p k, (i = .str r p k ∨ i = .ldr r p k) ∧ s.cfg.kOffset = .refuseTopBit ∧ 16 ≤ k.toNat) ∨
      (∃ p b, i = .api p b ∧ s.cfg.apiImm = .refuseTopBit ∧ 256 ≤ b.toNat)) : FaultCase i s .ambiguousField

/-- An instruction faults only in one of the situations of R241. -/
theorem exec_faultCase {i : Instr} {s : State} {f : Fault} (h : exec i s = .fault f) : FaultCase i s f := by
  cases i using Instr.byFamily
  case branch cond a =>
    rw [exec_branch, relativeBranch_fault_iff, widen_error_iff_le] at h
    obtain ⟨hext, hle, rfl⟩ := h
    exact .ambiguous (.inl ⟨cond, a, rfl, hext, hle⟩)
  case indirect cond p =>
    rw [exec_indirect] at h
    exact absurd h transfer_ne_fault
  case jump cond a =>
    rw [exec_jump] at h
    exact absurd h transfer_ne_fault
  case callTo cond a =>
    rw [exec_callTo, absoluteCall_fault_iff] at h
    obtain ⟨hc, hl, rfl⟩ := h
    exact .overflow (.inl ⟨cond, a, rfl, hc⟩) hl
  case returnOn cond =>
    rw [exec_returnOn, subroutineReturn_fault_iff] at h
    obtain ⟨hc, ⟨hs, rfl⟩ | ⟨top, rest, hs, hkind, rfl⟩⟩ := h
    · exact .underflow (.inl ⟨cond, rfl, hc⟩) hs
    · exact .mismatch top rest hs (.inl ⟨cond, rfl, hc, hkind⟩)
  case sri rs p =>
    obtain ⟨hm, rfl⟩ := storePost_fault_iff.1 h
    exact .unmappedPair rs p (.inl rfl) hm
  case srd rs p =>
    obtain ⟨hm, rfl⟩ := storePost_fault_iff.1 h
    exact .unmappedPair rs p (.inr (.inl rfl)) hm
  case lri rd p =>
    obtain ⟨hin, rfl⟩ | ⟨hout, hm, rfl⟩ := loadPost_fault_iff.1 h
    · exact .overlap rd p (.inl rfl) (mem_pairRegs.2 hin)
    · exact .unmappedPair rd p (.inr (.inr ⟨.inl rfl, not_mem_pairRegs.2 hout⟩)) hm
  case lrd rd p =>
    obtain ⟨hin, rfl⟩ | ⟨hout, hm, rfl⟩ := loadPost_fault_iff.1 h
    · exact .overlap rd p (.inr rfl) (mem_pairRegs.2 hin)
    · exact .unmappedPair rd p (.inr (.inr ⟨.inr rfl, not_mem_pairRegs.2 hout⟩)) hm
  case str rs p k =>
    obtain ⟨a, ha, hm, rfl⟩ | hk := execStr_fault_iff.1 h
    · exact .unmappedOffset rs p k a (.inl rfl) ha hm
    · obtain ⟨hext, hle, rfl⟩ := widen_error_iff_le.1 hk
      exact .ambiguous (.inr (.inl ⟨rs, p, k, .inl rfl, hext, hle⟩))
  case ldr rd p k =>
    obtain ⟨a, ha, hm, rfl⟩ | hk := execLdr_fault_iff.1 h
    · exact .unmappedOffset rd p k a (.inr rfl) ha hm
    · obtain ⟨hext, hle, rfl⟩ := widen_error_iff_le.1 hk
      exact .ambiguous (.inr (.inl ⟨rd, p, k, .inr rfl, hext, hle⟩))
  case api p b =>
    obtain ⟨hext, hle, rfl⟩ := widen_error_iff_le.1 (execApi_fault_iff.1 h)
    exact .ambiguous (.inr (.inr ⟨p, b, rfl, hext, hle⟩))
  case pop rd =>
    obtain ⟨hs, rfl⟩ | ⟨top, rest, hs, hkind, rfl⟩ := execPop_fault_iff.1 h
    · exact .underflow (.inr (.inr ⟨rd, rfl⟩)) hs
    · exact .mismatch top rest hs (.inr (.inr ⟨⟨rd, rfl⟩, hkind⟩))
  case pus =>
    obtain ⟨hl, rfl⟩ := execPus_fault_iff.1 h
    exact .overflow (.inr rfl) hl
  case pos =>
    obtain ⟨hs, rfl⟩ | ⟨top, rest, hs, hkind, rfl⟩ := execPos_fault_iff.1 h
    · exact .underflow (.inr (.inl rfl)) hs
    · exact .mismatch top rest hs (.inr (.inl ⟨rfl, hkind⟩))
  all_goals cases h

/-- Settles O12: the situation of each fault is the one that `exec_faultCase` names. -/
theorem faultsOfInstructionsAreThoseListed : Obligations.FaultsOfInstructionsAreThoseListed := by
  unfold Obligations.FaultsOfInstructionsAreThoseListed
  intro i s f h
  cases exec_faultCase h with
  | unmappedPair r p hi hm => exact .inl ⟨_, rfl, hm, .inl ⟨r, p, hi, rfl⟩⟩
  | unmappedOffset r p k a hi ha hm => exact .inl ⟨a, rfl, hm, .inr ⟨r, p, k, hi, ha⟩⟩
  | overflow hi hl => exact .inr (.inl ⟨rfl, hl, hi⟩)
  | underflow hi hs => exact .inr (.inr (.inl ⟨rfl, hs, hi⟩))
  | mismatch top rest hs hi => exact .inr (.inr (.inr (.inl ⟨rfl, top, rest, hs, hi⟩)))
  | overlap rd p hi hr => exact .inr (.inr (.inr (.inr (.inl ⟨rfl, rd, p, hi, hr⟩))))
  | ambiguous hi => exact .inr (.inr (.inr (.inr (.inr ⟨rfl, hi⟩))))

theorem dataMapped_default (a : Word) : dataMapped Config.default a = true := by
  have ha := a.isLt
  simp [dataMapped, Config.default]
  omega

/-- Settles O39: by the fault lemma of each access. -/
theorem dataFaultsLeaveNoEffect : Obligations.DataFaultsLeaveNoEffect := by
  unfold Obligations.DataFaultsLeaveNoEffect
  refine ⟨fun s r p hm => ⟨?_, ?_, fun hr => ?_⟩, fun s r p hr => ?_, fun s r p k addr ha hm => ⟨?_, ?_⟩, dataMapped_default⟩
  · exact storePost_fault_iff.2 ⟨hm, rfl⟩
  · exact storePost_fault_iff.2 ⟨hm, rfl⟩
  · have hout := not_mem_pairRegs.1 hr
    exact ⟨loadPost_fault_iff.2 (.inr ⟨hout, hm, rfl⟩), loadPost_fault_iff.2 (.inr ⟨hout, hm, rfl⟩)⟩
  · have hin := mem_pairRegs.1 hr
    exact ⟨loadPost_fault_iff.2 (.inl ⟨hin, rfl⟩), loadPost_fault_iff.2 (.inl ⟨hin, rfl⟩)⟩
  · exact execStr_fault_iff.2 (.inl ⟨addr, ha, hm, rfl⟩)
  · exact execLdr_fault_iff.2 (.inl ⟨addr, ha, hm, rfl⟩)

/-- Settles O40: widening refuses the field, and each meaning widens its field first. -/
theorem ambiguousFieldsFault : Obligations.AmbiguousFieldsFault := by
  unfold Obligations.AmbiguousFieldsFault
  refine ⟨fun s cond a hext hle => ?branch, fun s r p k hext hle => ?offset, fun s p i hext hle => ?imm⟩
  case branch =>
    rw [exec_branch, relativeBranch_fault_iff]
    exact widen_error_iff_le.2 ⟨hext, hle, rfl⟩
  case offset =>
    have hk : widen s.cfg.kOffset k = .error .ambiguousField := widen_error_iff_le.2 ⟨hext, hle, rfl⟩
    exact ⟨execStr_fault_iff.2 (.inr hk), execLdr_fault_iff.2 (.inr hk)⟩
  case imm => exact execApi_fault_iff.2 (widen_error_iff_le.2 ⟨hext, hle, rfl⟩)

end Sys2Proof

/-! PROOFS. What every instruction keeps, read off the forms of its next state (`exec_nextForm`), and what steps and runs keep because of it. -/

namespace Sys2Proof.Machine

/-! ### The fields that a form leaves -/

@[simp] theorem ioWrite_regs (s : State) (port v : Byte) : (s.ioWrite port v).regs = s.regs := rfl
@[simp] theorem ioWrite_pc (s : State) (port v : Byte) : (s.ioWrite port v).pc = s.pc := rfl
@[simp] theorem ioWrite_status (s : State) (port v : Byte) : (s.ioWrite port v).status = s.status := rfl
@[simp] theorem ioWrite_stk (s : State) (port v : Byte) : (s.ioWrite port v).stk = s.stk := rfl
@[simp] theorem ioWrite_halted (s : State) (port v : Byte) : (s.ioWrite port v).halted = s.halted := rfl
@[simp] theorem ioWrite_dmem (s : State) (port v : Byte) : (s.ioWrite port v).dmem = s.dmem := rfl
@[simp] theorem ioWrite_fault (s : State) (port v : Byte) : (s.ioWrite port v).fault = s.fault := rfl
@[simp] theorem ioWrite_imem (s : State) (port v : Byte) : (s.ioWrite port v).imem = s.imem := rfl
@[simp] theorem ioWrite_cfg (s : State) (port v : Byte) : (s.ioWrite port v).cfg = s.cfg := rfl
@[simp] theorem ioWrite_ioReads (s : State) (port v : Byte) : (s.ioWrite port v).ioReads = s.ioReads := rfl
@[simp] theorem ioWrite_flagDraws (s : State) (port v : Byte) : (s.ioWrite port v).flagDraws = s.flagDraws := rfl

section Forms

variable {i : Instr} {s t : State}

/-- No form writes the program, the parameters or the fault record. -/
theorem NextForm.program_kept (h : NextForm i s t) : t.imem = s.imem ∧ t.cfg = s.cfg ∧ t.fault = s.fault := by
  cases h
  all_goals simp

/-- The byte a store of `i` in `s` writes is at `a` (43 R150, R155). -/
def StoresAt (i : Instr) (s : State) (a : Word) : Prop :=
  (∃ rs p, (i = .sri rs p ∨ i = .srd rs p) ∧ a = s.readPair p) ∨ ∃ rs p k, i = .str rs p k ∧ s.offsetAddress p k = .ok a

/-- The data space is unchanged, or one byte is written at the address of a store. -/
theorem NextForm.dmem_cases (h : NextForm i s t) :
    t.dmem = s.dmem ∨ ∃ a v, StoresAt i s a ∧ t.dmem = Memory.write s.dmem a.toNat v := by
  cases h
  case storePost rs p delta hi hm => exact .inr ⟨_, s.readReg rs, .inl ⟨rs, p, hi, rfl⟩, by simp⟩
  case store rs p k addr hi ha hm => exact .inr ⟨_, s.readReg rs, .inr ⟨rs, p, k, hi, ha⟩, by simp⟩
  all_goals exact .inl (by simp)

/-- The stack is unchanged, or an instruction that reaches it pushes an item that is no Byte, with room for it, or takes the top off. -/
theorem NextForm.stk_cases (h : NextForm i s t) :
    t.stk = s.stk ∨
      (ReachesStack i ∧ ∃ item, (∀ b, item ≠ .byte b) ∧ s.stk.length < s.cfg.stackDepth ∧ t.stk = item :: s.stk) ∨
      (ReachesStack i ∧ ∃ item, s.stk = item :: t.stk) := by
  cases h
  case pop rd b rest hi hs => exact .inr (.inr ⟨.inr (.inr (.inr (.inr ⟨rd, hi⟩))), .byte b, by simpa using hs⟩)
  case call cond a hi hc hl => exact .inr (.inl ⟨.inl ⟨cond, a, hi⟩, .ret (s.pc + 2), by simp, hl, by simp⟩)
  case ret cond a rest hi hc hs => exact .inr (.inr ⟨.inr (.inl ⟨cond, hi⟩), .ret a, by simpa using hs⟩)
  case pus hi hl => exact .inr (.inl ⟨.inr (.inr (.inl hi)), .stat s.status, by simp, hl, by simp⟩)
  case pos v rest hi hs => exact .inr (.inr ⟨.inr (.inr (.inr (.inl hi))), .stat v, by simpa using hs⟩)
  all_goals exact .inl (by simp)

theorem NextForm.iolog_kept (h : NextForm i s t) (hin : ¬∃ rd io, i = .inp rd io) (hout : ¬∃ rs io, i = .out rs io) :
    t.iolog = s.iolog := by
  cases h
  case input rd io hi => exact absurd ⟨rd, io, hi⟩ hin
  case output rs io hi => exact absurd ⟨rs, io, hi⟩ hout
  all_goals simp

theorem NextForm.halted_kept (h : NextForm i s t) (hi : i ≠ .hlt) : t.halted = s.halted := by
  cases h
  case hlt hi' => exact absurd hi' hi
  all_goals simp

theorem NextForm.pc_of_not_transfer (h : NextForm i s t) (hi : ¬IsTransfer i) : t.pc = s.pc + 1 := by
  cases h
  case goto target hi' => exact absurd hi' hi
  case call cond a hi' hc hl => exact absurd ⟨cond, .inr (.inr (.inr (.inl ⟨a, hi'⟩)))⟩ hi
  case ret cond a rest hi' hc hs => exact absurd ⟨cond, .inr (.inr (.inr (.inr hi')))⟩ hi
  all_goals simp

/-! ### Registers -/

theorem regsKept_of_eq {regs : List RegNum} (h : t.regs = s.regs) : RegsKept regs s t := fun r _ => readReg_congr h r

theorem NextForm.regs_kept (h : NextForm i s t) : RegsKept (registersWritten i) s t := by
  cases h
  case result rd v row hr hio hrow =>
    intro r hmem
    rw [hr, List.mem_singleton] at hmem
    simp [readReg_writeReg_other _ _ hmem]
  case input rd io hi =>
    intro r hmem
    rw [hi, registersWritten, List.mem_singleton] at hmem
    simp [readReg_writeReg_other _ _ hmem, readReg_congr (ioRead_regs s io)]
  case storePost rs p delta hi hm =>
    have hwritten : registersWritten i = pairRegs p := by obtain rfl | rfl := hi <;> rfl
    intro r hmem
    rw [hwritten, not_mem_pairRegs] at hmem
    simp [readReg_writePair_other _ _ _ hmem]
  case loadPost rd p delta hi ho hm =>
    have hwritten : registersWritten i = rd :: pairRegs p := by obtain rfl | rfl := hi <;> rfl
    intro r hmem
    rw [hwritten, List.mem_cons, not_or, not_mem_pairRegs] at hmem
    simp [readReg_writePair_other _ _ _ hmem.2, readReg_writeReg_other _ _ hmem.1]
  case pair p v hi =>
    have hwritten : registersWritten i = pairRegs p := by obtain ⟨b, rfl⟩ | ⟨ps, rfl⟩ := hi <;> rfl
    intro r hmem
    rw [hwritten, not_mem_pairRegs] at hmem
    simp [readReg_writePair_other _ _ _ hmem]
  case pop rd b rest hi hs =>
    intro r hmem
    rw [hi, registersWritten, List.mem_singleton] at hmem
    simp [readReg_writeReg_other _ _ hmem]
  all_goals exact regsKept_of_eq (by simp)

/-! ### The bits of `s` -/

theorem statusKept_of_eq {flags : List Flag} (h : t.status = s.status) : StatusKept flags s t := fun j _ => by rw [h]

theorem flagsOpen_of_writes (h : flagsWritten i ≠ [] ∨ registersWritten i ≠ []) : flagsOpen i s = flagsWritten i ++ drawnFlags s := by
  rw [flagsOpen, if_neg (fun hnone => h.elim (fun hf => hf hnone.1) fun hr => hr hnone.2)]

/-- A flag write after an operation that leaves `s` opens no bit but those of the table and of a draw. -/
theorem statusKept_flagsOpen {u : State} {row : FlagRow} (h : flagsWritten i ≠ [] ∨ registersWritten i ≠ [])
    (hs : u.status = s.status) (hcfg : u.cfg = s.cfg) (hrow : row.Within (flagsWritten i)) :
    StatusKept (flagsOpen i s) s ((u.writeFlags row).advance 1) := by
  obtain ⟨hc, hz, hn⟩ := hrow
  intro j hj
  rw [flagsOpen_of_writes h] at hj
  have hkept := statusKept_writeFlags u row (flagsWritten i) hc hz hn j (by simpa [drawnFlags, hcfg] using hj)
  simpa [hs] using hkept

theorem NextForm.status_kept (h : NextForm i s t) (hi : ¬WritesStatusWhole i) : StatusKept (flagsOpen i s) s t := by
  cases h
  case result rd v row hr hio hrow => exact statusKept_flagsOpen (.inr (by simp [hr])) rfl rfl hrow
  case compare x hr hf => exact statusKept_flagsOpen (.inl (by simp [hf])) rfl rfl (by simp [FlagRow.Within, hf])
  case input rd io hi' =>
    subst hi'
    exact statusKept_flagsOpen (.inr (List.cons_ne_nil _ _)) rfl rfl keepRow_within
  case storePost rs p delta hi' hm =>
    obtain rfl | rfl := hi' <;> exact statusKept_flagsOpen (.inr (List.cons_ne_nil _ _)) rfl rfl keepRow_within
  case loadPost rd p delta hi' ho hm =>
    obtain rfl | rfl := hi' <;> exact statusKept_flagsOpen (.inr (List.cons_ne_nil _ _)) rfl rfl keepRow_within
  case pair p v hi' =>
    obtain ⟨b, rfl⟩ | ⟨ps, rfl⟩ := hi' <;> exact statusKept_flagsOpen (.inr (List.cons_ne_nil _ _)) rfl rfl keepRow_within
  case pop rd b rest hi' hs =>
    subst hi'
    exact statusKept_flagsOpen (.inr (List.cons_ne_nil _ _)) rfl rfl keepRow_within
  case pos v rest hi' hs => exact absurd (.inl hi') hi
  case status v hi' => exact absurd (.inr hi') hi
  all_goals exact statusKept_of_eq (by simp)

/-! ### The invariant and the stack without Byte items -/

theorem NextForm.keeps_inv (h : NextForm i s t) (hinv : s.Inv) : t.Inv := by
  obtain ⟨hwf, hdmem, himem, hstk⟩ := hinv
  obtain ⟨hi, hcfg, -⟩ := h.program_kept
  refine ⟨by rwa [hcfg], ?_, by rwa [hi], ?_⟩
  · obtain hd | ⟨a, v, -, hd⟩ := h.dmem_cases
    · rwa [hd]
    · rw [hd]
      exact Memory.wf_write a v hdmem
  · obtain hs | ⟨-, item, -, hroom, hs⟩ | ⟨-, item, hs⟩ := h.stk_cases
    · rwa [hs, hcfg]
    · rw [hs, hcfg, List.length_cons]
      exact hroom
    · rw [hs, List.length_cons] at hstk
      rw [hcfg]
      omega

theorem NextForm.keeps_noByteItem (h : NextForm i s t) (hbyte : s.NoByteItem) : t.NoByteItem := by
  intro b hb
  obtain hs | ⟨-, item, hkind, -, hs⟩ | ⟨-, item, hs⟩ := h.stk_cases
  · exact hbyte b (hs ▸ hb)
  · rw [hs, List.mem_cons] at hb
    exact hb.elim (fun e => hkind b e.symm) (hbyte b)
  · exact hbyte b (hs ▸ List.mem_cons_of_mem item hb)

end Forms

/-! ### Steps -/

/-- A step that answers stays where it is, or moves as some instruction does. -/
theorem step_next_form {s t : State} (h : step s = .next t) : t = s ∨ ∃ i, NextForm i s t := by
  obtain ⟨-, rfl⟩ | ⟨-, -, i, -, -, hexec⟩ := step_next_cases h
  · exact .inl rfl
  · exact .inr ⟨i, exec_nextForm hexec⟩

/-- Settles O14: each form of a next state keeps the invariant. -/
theorem stepKeepsTheInvariant : Obligations.StepKeepsTheInvariant := by
  unfold Obligations.StepKeepsTheInvariant
  intro s t hinv h
  obtain rfl | ⟨i, hform⟩ := step_next_form h
  · exact hinv
  · exact hform.keeps_inv hinv

theorem step_keeps_noByteItem {s t : State} (hbyte : s.NoByteItem) (h : step s = .next t) : t.NoByteItem := by
  obtain rfl | ⟨i, hform⟩ := step_next_form h
  · exact hbyte
  · exact hform.keeps_noByteItem hbyte

theorem step_keeps_program {s t : State} (h : step s = .next t) : t.imem = s.imem ∧ t.cfg = s.cfg ∧ t.fault = s.fault := by
  obtain rfl | ⟨i, hform⟩ := step_next_form h
  · exact ⟨rfl, rfl, rfl⟩
  · exact hform.program_kept

/-- Settles O15: along runs, by the same of one step. -/
theorem runsKeepProgramAndParameters : Obligations.RunsKeepProgramAndParameters := by
  unfold Obligations.RunsKeepProgramAndParameters
  refine run_induct (P := fun _ s t => t.imem = s.imem ∧ t.cfg = s.cfg ∧ t.fault = s.fault) (fun _ => ⟨rfl, rfl, rfl⟩) ?_
  rintro k s u t hstep ⟨hi, hc, hf⟩
  obtain ⟨hi', hc', hf'⟩ := step_keeps_program hstep
  exact ⟨hi.trans hi', hc.trans hc', hf.trans hf'⟩

/-! ### POP on a stack without Byte items -/

theorem exec_pop_of_noByteItem {s : State} (hbyte : s.NoByteItem) (rd : RegNum) :
    exec (.pop rd) s = .fault (if s.stk = [] then .stackUnderflow else .stackKindMismatch) := by
  cases hs : s.stk with
  | nil => exact execPop_fault_iff.2 (.inl ⟨hs, rfl⟩)
  | cons top rest =>
    have hkind : ∀ b, top ≠ .byte b := fun b e => hbyte b (by rw [hs, e]; exact List.mem_cons_self)
    exact execPop_fault_iff.2 (.inr ⟨top, rest, hs, hkind, rfl⟩)

/-- Settles O24: no form of a next state pushes a Byte item, so none is on the stack of any run from an empty stack. -/
theorem popFaultsInEveryRunFromAnEmptyStack : Obligations.PopFaultsInEveryRunFromAnEmptyStack := by
  unfold Obligations.PopFaultsInEveryRunFromAnEmptyStack
  have hrun := run_induct (P := fun _ s t => s.NoByteItem → t.NoByteItem) (fun _ h => h)
    fun _ _ _ _ hstep ih hbyte => ih (step_keeps_noByteItem hbyte hstep)
  refine ⟨fun s t => step_keeps_noByteItem, fun s rd hbyte => exec_pop_of_noByteItem hbyte rd, fun k s t rd hs h => ?_⟩
  have hempty : s.NoByteItem := fun b hb => by simp [hs] at hb
  exact exec_pop_of_noByteItem (hrun k s t h hempty) rd

/-! ### The log -/

theorem exec_inp_iolog {rd : RegNum} {io : Byte} {s t : State} (h : exec (.inp rd io) s = .next t) :
    t.iolog = s.iolog ++ [.input io (t.readReg rd)] := by
  rw [writeResult_next_iff.1 h]
  simp [ioRead_log]

theorem exec_out_iolog {rs : RegNum} {io : Byte} {s t : State} (h : exec (.out rs io) s = .next t) :
    t.iolog = s.iolog ++ [.output io (s.readReg rs)] := by
  rw [exec_out] at h
  obtain rfl := Host.Outcome.next.inj h
  simp [ioWrite_log]

/-- The log of a next state, by the instruction. -/
theorem exec_iolog_cases {i : Instr} {s t : State} (h : exec i s = .next t) :
    ((∀ rd io, i ≠ .inp rd io) ∧ (∀ rs io, i ≠ .out rs io) ∧ t.iolog = s.iolog) ∨
      (∃ rd io, i = .inp rd io ∧ t.iolog = s.iolog ++ [.input io (t.readReg rd)]) ∨
      (∃ rs io, i = .out rs io ∧ t.iolog = s.iolog ++ [.output io (s.readReg rs)]) := by
  by_cases hin : ∃ rd io, i = .inp rd io
  · obtain ⟨rd, io, rfl⟩ := hin
    exact .inr (.inl ⟨rd, io, rfl, exec_inp_iolog h⟩)
  by_cases hout : ∃ rs io, i = .out rs io
  · obtain ⟨rs, io, rfl⟩ := hout
    exact .inr (.inr ⟨rs, io, rfl, exec_out_iolog h⟩)
  exact .inl ⟨fun rd io e => hin ⟨rd, io, e⟩, fun rs io e => hout ⟨rs, io, e⟩, (exec_nextForm h).iolog_kept hin hout⟩

/-- A step adds at most one event to the log. -/
theorem step_iolog {s t : State} (h : step s = .next t) : s.iolog <+: t.iolog ∧ t.iolog.length ≤ s.iolog.length + 1 := by
  obtain ⟨-, rfl⟩ | ⟨-, -, i, -, -, hexec⟩ := step_next_cases h
  · exact ⟨List.prefix_rfl, by omega⟩
  · obtain ⟨-, -, hl⟩ | ⟨_, _, -, hl⟩ | ⟨_, _, -, hl⟩ := exec_iolog_cases hexec
    all_goals simp [hl]

/-- Settles O16: the log of one instruction, then of runs. -/
theorem logOnlyGrowsByWhatInAndOutDo : Obligations.LogOnlyGrowsByWhatInAndOutDo := by
  unfold Obligations.LogOnlyGrowsByWhatInAndOutDo
  refine ⟨fun i s t => exec_iolog_cases, ?_⟩
  refine run_induct (P := fun k s t => s.iolog <+: t.iolog ∧ t.iolog.length ≤ s.iolog.length + k)
    (fun s => ⟨List.prefix_rfl, le_refl _⟩) ?_
  rintro k s u t hstep ⟨hpre, hlen⟩
  obtain ⟨hpre', hlen'⟩ := step_iolog hstep
  exact ⟨hpre'.trans hpre, by omega⟩

/-! ### The frames of instructions -/

/-- Settles O17: HLT sets the bit, every other form keeps it, and a halted state takes no step. -/
theorem onlyHltHalts : Obligations.OnlyHltHalts := by
  unfold Obligations.OnlyHltHalts
  refine ⟨fun i s t h => ?_, fun k s hh => run_stopped (.inl hh) k⟩
  by_cases hi : i = .hlt
  · subst hi
    obtain rfl : s.setHalted.advance 1 = t := Host.Outcome.next.inj h
    simp
  · rw [(exec_nextForm h).halted_kept hi]
    simp [hi]

/-- Settles O18: by the forms of a next state. -/
theorem registersWrittenAreThoseListed : Obligations.RegistersWrittenAreThoseListed := by
  unfold Obligations.RegistersWrittenAreThoseListed
  exact fun _ _ _ h => (exec_nextForm h).regs_kept

/-- Settles O19: by the forms of a next state. -/
theorem flagsWrittenAreThoseTabled : Obligations.FlagsWrittenAreThoseTabled := by
  unfold Obligations.FlagsWrittenAreThoseTabled
  exact fun _ _ _ h hi => (exec_nextForm h).status_kept hi

theorem isStore_of_storesAt {i : Instr} {s : State} {a : Word} (h : StoresAt i s a) : IsStore i := by
  obtain ⟨rs, p, rfl | rfl, -⟩ | ⟨rs, p, k, rfl, -⟩ := h
  · exact .inl ⟨rs, p, rfl⟩
  · exact .inr (.inl ⟨rs, p, rfl⟩)
  · exact .inr (.inr ⟨rs, p, k, rfl⟩)

/-- The address of a store is one. -/
theorem StoresAt.unique {i : Instr} {s : State} {a b : Word} (ha : StoresAt i s a) (hb : StoresAt i s b) : a = b := by
  obtain ⟨rs, p, hi, rfl⟩ | ⟨rs, p, k, hi, ha⟩ := ha
  · obtain ⟨rs', p', hi', rfl⟩ | ⟨_, _, _, hi', -⟩ := hb
    · have hp : p = p' := by obtain rfl | rfl := hi <;> simp at hi' <;> exact hi'.2
      rw [hp]
    · obtain rfl | rfl := hi <;> cases hi'
  · obtain ⟨_, _, hi', -⟩ | ⟨_, _, _, hi', hb⟩ := hb
    · subst hi
      simp at hi'
    · subst hi
      cases hi'
      exact Except.ok.inj (ha.symm.trans hb)

/-- A store in a canonical data space leaves every byte but its own. -/
theorem dataKeptBut_of_storesAt {i : Instr} {s t : State} {a : Word} (h : NextForm i s t) (hwf : Memory.wf s.dmem = true)
    (ha : StoresAt i s a) : DataKeptBut a s t := by
  intro b hb
  obtain hd | ⟨a', v, ha', hd⟩ := h.dmem_cases
  · exact dataByte_congr hd b
  · obtain rfl := ha.unique ha'
    rw [dataByte_congr (s := s.setDmem (Memory.write s.dmem a.toNat v)) (by rw [hd]; rfl), dataByte_store hwf, if_neg hb]

/-- Settles O20: the data space and the stack by the forms of a next state; a store has one address. -/
theorem dataAndStackAreReachedOnlyByTheirInstructions : Obligations.DataAndStackAreReachedOnlyByTheirInstructions := by
  unfold Obligations.DataAndStackAreReachedOnlyByTheirInstructions
  intro i s t h
  have hform := exec_nextForm h
  refine ⟨fun hi => ?data, fun hwf rs p => ⟨fun hi => ?post, fun k addr hi ha => ?offset⟩, fun hi => ?still, ?stack⟩
  case data =>
    obtain hd | ⟨a, v, ha, -⟩ := hform.dmem_cases
    · exact hd
    · exact absurd (isStore_of_storesAt ha) hi
  case post => exact dataKeptBut_of_storesAt hform hwf (.inl ⟨rs, p, hi, rfl⟩)
  case offset => exact dataKeptBut_of_storesAt hform hwf (.inr ⟨rs, p, k, hi, ha⟩)
  case still =>
    obtain hs | ⟨hi', -⟩ | ⟨hi', -⟩ := hform.stk_cases
    · exact hs
    · exact absurd hi' hi
    · exact absurd hi' hi
  case stack =>
    obtain hs | ⟨-, item, -, -, hs⟩ | ⟨-, item, hs⟩ := hform.stk_cases
    · exact .inl hs
    · exact .inr (.inl ⟨item, hs⟩)
    · exact .inr (.inr ⟨item, hs⟩)

/-- Settles O21: by the forms of a next state. -/
theorem onlyTransfersLeaveTheSequence : Obligations.OnlyTransfersLeaveTheSequence := by
  unfold Obligations.OnlyTransfersLeaveTheSequence
  exact fun _ _ _ h hi => (exec_nextForm h).pc_of_not_transfer hi

/-! ### Reset -/

/-- Settles O13: the values of the reset state and of the default parameters, each as the definition gives it. -/
theorem resetIsALaunchStateAndMeetsTheInvariant : Obligations.ResetIsALaunchStateAndMeetsTheInvariant := by
  unfold Obligations.ResetIsALaunchStateAndMeetsTheInvariant
  refine ⟨?inv, ⟨rfl, rfl, rfl, rfl, rfl⟩, rfl, rfl, fun r => ?regs, rfl, fun _ => rfl, fun _ => rfl, nofun, rfl, rfl, rfl, rfl, rfl,
    rfl, rfl, rfl, rfl, rfl, rfl, rfl, rfl, dataMapped_default, rfl⟩
  case inv => exact ⟨by decide, rfl, rfl, Nat.zero_le _⟩
  case regs => simp [State.readReg]

end Sys2Proof.Machine

/-! PROOFS. Two runs of one instruction, from states that agree in all but `s`, FLAG_MODEL and the count of flag draws (10_state.md R28, R29): every operation on the state keeps this agreement, and with it every instruction that reads nothing on which the two states differ. -/

namespace Sys2Proof.Machine

/-! ### The relation -/

/-- Two states that agree in all but `s`, FLAG_MODEL and, where FLAG_MODEL differs, the count of flag draws. -/
structure Alike (s t : State) : Prop where
  regs : t.regs = s.regs
  pc : t.pc = s.pc
  stk : t.stk = s.stk
  halted : t.halted = s.halted
  dmem : t.dmem = s.dmem
  iolog : t.iolog = s.iolog
  fault : t.fault = s.fault
  imem : t.imem = s.imem
  cfg : t.cfg = { s.cfg with flagModel := t.cfg.flagModel }
  ioReads : t.ioReads = s.ioReads
  draws : t.cfg.flagModel = s.cfg.flagModel → t.flagDraws = s.flagDraws

namespace Alike

variable {s t : State}

/-! ### What two such states read alike -/

theorem readReg (h : Alike s t) (r : RegNum) : t.readReg r = s.readReg r := readReg_congr h.regs r

theorem highReg (h : Alike s t) (p : PairNum) : Machine.highReg t.cfg p = Machine.highReg s.cfg p := by rw [h.cfg]; rfl

theorem lowReg (h : Alike s t) (p : PairNum) : Machine.lowReg t.cfg p = Machine.lowReg s.cfg p := by rw [h.cfg]; rfl

theorem readPair (h : Alike s t) (p : PairNum) : t.readPair p = s.readPair p := by
  simp only [State.readPair, h.highReg, h.lowReg, h.readReg]

theorem flagBit (h : Alike s t) (f : Flag) : t.cfg.flagBit f = s.cfg.flagBit f := by
  rw [h.cfg]
  cases f <;> rfl

theorem flag (h : Alike s t) (hs : t.status = s.status) (f : Flag) : t.flag f = s.flag f := by
  simp only [State.flag, hs, h.flagBit]

/-- A condition that reads a flag is the same where `s` is. -/
theorem cond (h : Alike s t) {k : Cond} (hs : k ≠ .always → t.status = s.status) : t.cond k = s.cond k := by
  cases k with
  | always => rfl
  | c | nc | z | nz | n | nn => simp only [State.cond, h.flag (hs (by decide))]

theorem dataMapped (h : Alike s t) (a : Word) : Machine.dataMapped t.cfg a = Machine.dataMapped s.cfg a := by rw [h.cfg]; rfl

theorem memRead (h : Alike s t) (a : Word) : t.memRead a = s.memRead a := by
  simp only [State.memRead, h.dataMapped, State.dataByte, h.dmem]

theorem stackDepth (h : Alike s t) : t.cfg.stackDepth = s.cfg.stackDepth := by rw [h.cfg]
theorem brBase (h : Alike s t) : t.cfg.brBase = s.cfg.brBase := by rw [h.cfg]
theorem brOffset (h : Alike s t) : t.cfg.brOffset = s.cfg.brOffset := by rw [h.cfg]
theorem kOffset (h : Alike s t) : t.cfg.kOffset = s.cfg.kOffset := by rw [h.cfg]
theorem apiImm (h : Alike s t) : t.cfg.apiImm = s.cfg.apiImm := by rw [h.cfg]
theorem environment (h : Alike s t) : t.cfg.environment = s.cfg.environment := by rw [h.cfg]

theorem offsetAddress (h : Alike s t) (p : PairNum) (k : BitVec 5) : t.offsetAddress p k = s.offsetAddress p k := by
  simp only [State.offsetAddress, h.kOffset, h.readPair]

/-- Log entry 11: the byte drawn is one function of the history, which the two states share. -/
theorem ioAnswer (h : Alike s t) (port : Byte) : t.ioAnswer port = s.ioAnswer port := by
  simp only [State.ioAnswer, State.envState, h.iolog, h.ioReads, h.environment]

/-! ### What keeps the relation -/

theorem setPc (h : Alike s t) (v : Word) : Alike (s.setPc v) (t.setPc v) := { h with pc := rfl }
theorem advance (h : Alike s t) (n : Word) : Alike (s.advance n) (t.advance n) := { h with pc := by simp [h.pc] }
theorem setStk (h : Alike s t) (l : List StackItem) : Alike (s.setStk l) (t.setStk l) := { h with stk := rfl }
theorem setDmem (h : Alike s t) (m : Memory) : Alike (s.setDmem m) (t.setDmem m) := { h with dmem := rfl }
theorem setHalted (h : Alike s t) : Alike s.setHalted t.setHalted := { h with halted := rfl }
theorem log (h : Alike s t) (e : IoEvent) : Alike (s.log e) (t.log e) := { h with iolog := by simp [h.iolog] }
theorem countIoRead (h : Alike s t) : Alike s.countIoRead t.countIoRead := { h with ioReads := by simp [h.ioReads] }

theorem writeReg (h : Alike s t) (r : RegNum) (v : Byte) : Alike (s.writeReg r v) (t.writeReg r v) :=
  { h with regs := by simp [h.regs] }

/-- `s` is no part of the relation. -/
theorem setStatus (h : Alike s t) (v w : Status) : Alike (s.setStatus v) (t.setStatus w) := { h with }

theorem writePair (h : Alike s t) (p : PairNum) (v : Word) : Alike (s.writePair p v) (t.writePair p v) := by
  rw [State.writePair, State.writePair, h.highReg, h.lowReg]
  exact (h.writeReg _ _).writeReg _ _

theorem writeFlags (h : Alike s t) (row : FlagRow) : Alike (s.writeFlags row) (t.writeFlags row) where
  regs := by simp [h.regs]
  pc := by simp [h.pc]
  stk := by simp [h.stk]
  halted := by simp [h.halted]
  dmem := by simp [h.dmem]
  iolog := by simp [h.iolog]
  fault := by simp [h.fault]
  imem := by simp [h.imem]
  cfg := by simpa using h.cfg
  ioReads := by simp [h.ioReads]
  draws hm := by
    have hm' : t.cfg.flagModel = s.cfg.flagModel := by simpa using hm
    rw [writeFlags_flagDraws, writeFlags_flagDraws, h.draws hm', hm']

theorem ioRead (h : Alike s t) (port : Byte) : Alike (s.ioRead port).2 (t.ioRead port).2 := by
  simp only [State.ioRead, h.ioAnswer]
  exact (h.log _).countIoRead

theorem ioWrite (h : Alike s t) (port v : Byte) : Alike (s.ioWrite port v) (t.ioWrite port v) := h.log _

end Alike

/-! ### Outcomes -/

theorem outcomesAgree_next {same : State → State → Prop} {t u : State} (h : same t u) : OutcomesAgree same (.next t) (.next u) :=
  .inl ⟨t, u, rfl, rfl, h⟩

theorem outcomesAgree_raise {same : State → State → Prop} (f : Fault) : OutcomesAgree same (raise f) (raise f) :=
  .inr (.inl ⟨f, rfl, rfl⟩)

/-- A primitive that answers the same in both states, whose continuations agree. -/
theorem outcomesAgree_orRaise {α : Type} {same : State → State → Prop} {r q : Except Fault α} {k l : α → State} (hr : q = r)
    (h : ∀ v, same (k v) (l v)) : OutcomesAgree same (orRaise r k) (orRaise q l) := by
  subst hr
  cases q with
  | ok v => exact outcomesAgree_next (h v)
  | error f => exact outcomesAgree_raise f

theorem OutcomesAgree.mono {same same' : State → State → Prop} {a b : Result} (h : OutcomesAgree same a b)
    (himp : ∀ t u, a = .next t → b = .next u → same t u → same' t u) : OutcomesAgree same' a b := by
  obtain ⟨t, u, ha, hb, hsame⟩ | hstop := h
  · exact .inl ⟨t, u, ha, hb, himp t u ha hb hsame⟩
  · exact .inr hstop

namespace Alike

variable {s t : State}

/-! ### The shapes -/

theorem exec_writeResult (h : Alike s t) {rd : RegNum} {v w : Byte} {row row' : FlagRow} (hv : w = v) (hrow : row' = row) :
    OutcomesAgree Alike (writeResult rd v row s) (writeResult rd w row' t) := by
  subst hv hrow
  exact outcomesAgree_next (((h.writeReg rd w).writeFlags row').advance 1)

theorem exec_writeLogic (h : Alike s t) {rd : RegNum} {v w : Byte} (hv : w = v) :
    OutcomesAgree Alike (writeLogic rd v s) (writeLogic rd w t) :=
  h.exec_writeResult hv (by rw [hv])

theorem exec_writeSum (h : Alike s t) {rd : RegNum} {x y : BitVec 9} (hx : y = x) :
    OutcomesAgree Alike (writeSum rd x s) (writeSum rd y t) :=
  h.exec_writeResult (by rw [hx]) (by rw [hx])

theorem exec_compareSum (h : Alike s t) {x y : BitVec 9} (hx : y = x) :
    OutcomesAgree Alike (compareSum x s) (compareSum y t) := by
  subst hx
  exact outcomesAgree_next ((h.writeFlags _).advance 1)

/-- A store at one address of one byte. -/
theorem exec_memWrite (h : Alike s t) {a b : Word} {v w : Byte} {k l : State → State} (ha : b = a) (hv : w = v)
    (hk : ∀ {x y}, Alike x y → Alike (k x) (l y)) : OutcomesAgree Alike (orRaise (s.memWrite a v) k) (orRaise (t.memWrite b w) l) := by
  subst ha hv
  simp only [State.memWrite, h.dataMapped, h.dmem]
  split
  · exact outcomesAgree_next (hk (h.setDmem _))
  · exact outcomesAgree_raise _

theorem exec_storePost (h : Alike s t) (rs : RegNum) (p : PairNum) (delta : Word) :
    OutcomesAgree Alike (storePost rs p delta s) (storePost rs p delta t) :=
  h.exec_memWrite (h.readPair p) (h.readReg rs) fun hxy => by
    rw [h.readPair]
    exact ((hxy.writePair p _).writeFlags keepRow).advance 1

theorem exec_loadPost (h : Alike s t) (rd : RegNum) (p : PairNum) (delta : Word) :
    OutcomesAgree Alike (loadPost rd p delta s) (loadPost rd p delta t) := by
  unfold loadPost
  rw [h.readPair]
  split
  · exact outcomesAgree_raise _
  · exact outcomesAgree_orRaise (h.memRead _) fun v => (((h.writeReg rd v).writePair p _).writeFlags keepRow).advance 1

theorem exec_str (h : Alike s t) (rs : RegNum) (p : PairNum) (k : BitVec 5) :
    OutcomesAgree Alike (execStr rs p k s) (execStr rs p k t) := by
  unfold execStr
  rw [h.offsetAddress]
  split
  · exact h.exec_memWrite rfl (h.readReg rs) fun hxy => hxy.advance 1
  · exact outcomesAgree_raise _

theorem exec_ldr (h : Alike s t) (rd : RegNum) (p : PairNum) (k : BitVec 5) :
    OutcomesAgree Alike (execLdr rd p k s) (execLdr rd p k t) := by
  unfold execLdr
  rw [h.offsetAddress]
  split
  · exact outcomesAgree_orRaise (h.memRead _) fun v => ((h.writeReg rd v).writeFlags keepRow).advance 1
  · exact outcomesAgree_raise _

theorem exec_api (h : Alike s t) (p : PairNum) (i : BitVec 9) : OutcomesAgree Alike (execApi p i s) (execApi p i t) :=
  outcomesAgree_orRaise (by rw [h.apiImm]) fun imm => by
    rw [h.readPair]
    exact ((h.writePair p _).writeFlags keepRow).advance 1

theorem exec_push (h : Alike s t) {item item' : StackItem} {k l : State → State} (hitem : item' = item)
    (hk : ∀ {x y}, Alike x y → Alike (k x) (l y)) : OutcomesAgree Alike (orRaise (s.push item) k) (orRaise (t.push item') l) := by
  subst hitem
  simp only [State.push, h.stackDepth, h.stk]
  split
  · exact outcomesAgree_raise _
  · exact outcomesAgree_next (hk (h.setStk _))

theorem exec_pop {α : Type} (h : Alike s t) {take : StackItem → Option α} {k l : α × State → State}
    (hk : ∀ {x y v}, Alike x y → Alike (k (v, x)) (l (v, y))) :
    OutcomesAgree Alike (orRaise (s.pop take) k) (orRaise (t.pop take) l) := by
  simp only [State.pop, h.stk]
  split
  · exact outcomesAgree_raise _
  · split
    · exact outcomesAgree_next (hk (h.setStk _))
    · exact outcomesAgree_raise _

theorem exec_transfer (h : Alike s t) {cond : Cond} {target target' len : Word} (hs : cond ≠ .always → t.status = s.status)
    (htarget : target' = target) : OutcomesAgree Alike (transfer cond target len s) (transfer cond target' len t) := by
  subst htarget
  unfold transfer
  rw [h.cond hs]
  split
  · exact outcomesAgree_next (h.setPc _)
  · exact outcomesAgree_next (h.advance _)

theorem exec_relativeBranch (h : Alike s t) {cond : Cond} {a : BitVec 9} (hs : cond ≠ .always → t.status = s.status) :
    OutcomesAgree Alike (relativeBranch cond a s) (relativeBranch cond a t) := by
  unfold relativeBranch
  rw [h.brOffset]
  split
  · exact h.exec_transfer hs (by rw [h.pc, h.brBase])
  · exact outcomesAgree_raise _

theorem exec_absoluteCall (h : Alike s t) {cond : Cond} {a : Word} (hs : cond ≠ .always → t.status = s.status) :
    OutcomesAgree Alike (absoluteCall cond a s) (absoluteCall cond a t) := by
  unfold absoluteCall
  rw [h.cond hs]
  split
  · exact h.exec_push (by rw [h.pc]) fun hxy => hxy.setPc a
  · exact outcomesAgree_next (h.advance 2)

theorem exec_subroutineReturn (h : Alike s t) {cond : Cond} (hs : cond ≠ .always → t.status = s.status) :
    OutcomesAgree Alike (subroutineReturn cond s) (subroutineReturn cond t) := by
  unfold subroutineReturn
  rw [h.cond hs]
  split
  · exact h.exec_pop fun hxy => hxy.setPc _
  · exact outcomesAgree_next (h.advance 1)

end Alike

/-! ### Every instruction -/

theorem conditionOf_branch (cond : Cond) (a : BitVec 9) : conditionOf (.branch cond a) = cond := by cases cond <;> rfl
theorem conditionOf_indirect (cond : Cond) (p : PairNum) : conditionOf (.indirect cond p) = cond := by cases cond <;> rfl
theorem conditionOf_jump (cond : Cond) (a : Word) : conditionOf (.jump cond a) = cond := by cases cond <;> rfl
theorem conditionOf_callTo (cond : Cond) (a : Word) : conditionOf (.callTo cond a) = cond := by cases cond <;> rfl
theorem conditionOf_returnOn (cond : Cond) : conditionOf (.returnOn cond) = cond := by cases cond <;> rfl

/-- R28: an instruction that depends on a condition reads `s`. -/
theorem readsStatus_of_condition {i : Instr} {cond : Cond} (hi : conditionOf i = cond) (hcond : cond ≠ .always) : ReadsStatus i :=
  .inr (.inr (.inr (.inr (.inr (.inl (hi ▸ hcond))))))

/-- An instruction does alike in two states that are alike, `s` among it where it reads `s`. -/
theorem exec_alike {i : Instr} {s t : State} (h : Alike s t) (hs : ReadsStatus i → t.status = s.status) :
    OutcomesAgree Alike (exec i s) (exec i t) := by
  cases i using Instr.byFamily
  case branch cond a =>
    rw [exec_branch, exec_branch]
    exact h.exec_relativeBranch fun hc => hs (readsStatus_of_condition (conditionOf_branch cond a) hc)
  case indirect cond p =>
    rw [exec_indirect, exec_indirect]
    exact h.exec_transfer (fun hc => hs (readsStatus_of_condition (conditionOf_indirect cond p) hc)) (h.readPair p)
  case jump cond a =>
    rw [exec_jump, exec_jump]
    exact h.exec_transfer (fun hc => hs (readsStatus_of_condition (conditionOf_jump cond a) hc)) rfl
  case callTo cond a =>
    rw [exec_callTo, exec_callTo]
    exact h.exec_absoluteCall fun hc => hs (readsStatus_of_condition (conditionOf_callTo cond a) hc)
  case returnOn cond =>
    rw [exec_returnOn, exec_returnOn]
    exact h.exec_subroutineReturn fun hc => hs (readsStatus_of_condition (conditionOf_returnOn cond) hc)
  case ldi rd i => exact h.exec_writeResult rfl rfl
  case mov rd rs => exact h.exec_writeResult (h.readReg rs) rfl
  case ani | ori | xoi | not => exact h.exec_writeLogic (by rw [h.readReg])
  case and | or | xor => exact h.exec_writeLogic (by rw [h.readReg, h.readReg])
  case adi => exact h.exec_writeSum (by rw [h.readReg])
  case add | sub => exact h.exec_writeSum (by rw [h.readReg, h.readReg])
  case aci rd i =>
    have hst := hs (.inl ⟨rd, i, rfl⟩)
    exact h.exec_writeSum (by rw [h.readReg, h.flag hst])
  case adc rd rs =>
    have hst := hs (.inr (.inl ⟨rd, rs, rfl⟩))
    exact h.exec_writeSum (by rw [h.readReg, h.readReg, h.flag hst])
  case sbb rd rs =>
    have hst := hs (.inr (.inr (.inl ⟨rd, rs, rfl⟩)))
    exact h.exec_writeSum (by rw [h.readReg, h.readReg, h.flag hst])
  case cpi => exact h.exec_compareSum (by rw [h.readReg])
  case cmp => exact h.exec_compareSum (by rw [h.readReg, h.readReg])
  case sll | srl | sra => exact h.exec_writeResult (by rw [h.readReg]) (by rw [h.readReg])
  case rlc rd =>
    have hst := hs (.inr (.inr (.inr (.inl ⟨rd, rfl⟩))))
    exact h.exec_writeResult (by rw [h.readReg, h.flag hst]) (by rw [h.readReg, h.flag hst])
  case rrc rd =>
    have hst := hs (.inr (.inr (.inr (.inr (.inl ⟨rd, rfl⟩)))))
    exact h.exec_writeResult (by rw [h.readReg, h.flag hst]) (by rw [h.readReg, h.flag hst])
  case inp rd io => exact (h.ioRead io).exec_writeResult (h.ioAnswer io) rfl
  case out rs io =>
    rw [exec_out, exec_out, h.readReg]
    exact outcomesAgree_next ((h.ioWrite io _).advance 1)
  case sri rs p => exact h.exec_storePost rs p 1
  case srd rs p => exact h.exec_storePost rs p (-1)
  case lri rd p => exact h.exec_loadPost rd p 1
  case lrd rd p => exact h.exec_loadPost rd p (-1)
  case str rs p k => exact h.exec_str rs p k
  case ldr rd p k => exact h.exec_ldr rd p k
  case api p i => exact h.exec_api p i
  case pop rd => exact h.exec_pop fun hxy => ((hxy.writeReg rd _).writeFlags keepRow).advance 1
  case pus =>
    have hst := hs (.inr (.inr (.inr (.inr (.inr (.inr (.inl rfl)))))))
    exact h.exec_push (by rw [hst]) fun hxy => hxy.advance 1
  case pos => exact h.exec_pop fun hxy => (hxy.setStatus _ _).advance 1
  case nop => exact outcomesAgree_next (h.advance 1)
  case hlt => exact outcomesAgree_next (h.setHalted.advance 1)
  case ssr | csr => exact outcomesAgree_next ((h.setStatus _ _).advance 1)
  case mvp pd ps =>
    refine outcomesAgree_next ?_
    rw [h.readPair]
    exact ((h.writePair pd _).writeFlags keepRow).advance 1

/-! ### The flags that two runs write -/

/-- The value that a row gives a flag. -/
def FlagRow.value (row : FlagRow) : Flag → Option Bool
  | .c => row.c
  | .z => row.z
  | .n => row.n

/-- Under FLAG_MODEL = conventional a flag takes the value of the row, or stays (R29). -/
theorem flag_writeFlags_conventional {s : State} (row : FlagRow) (hwf : s.cfg.wf = true) (hm : s.cfg.flagModel = .conventional)
    (f : Flag) : (s.writeFlags row).flag f = (row.value f).getD (s.flag f) := by
  obtain ⟨hc, hz, hn⟩ := conventionalFlags_flag s row (flagBitsDistinct_of_wf hwf)
  rw [writeFlags_conventional hm]
  cases f
  · exact hc
  · exact hz
  · exact hn

/-- A flag that a row gives a value is the same after the row in two states with the same parameters. -/
theorem flag_writeFlags_agree {s t : State} {row : FlagRow} {f : Flag} (hwf : s.cfg.wf = true)
    (hm : s.cfg.flagModel = .conventional) (hcfg : t.cfg = s.cfg) (hrow : row.value f ≠ none) :
    (s.writeFlags row).flag f = (t.writeFlags row).flag f := by
  obtain ⟨b, hb⟩ := Option.ne_none_iff_exists'.1 hrow
  rw [flag_writeFlags_conventional row hwf hm, flag_writeFlags_conventional row (hcfg ▸ hwf) (hcfg ▸ hm), hb]
  rfl

theorem flag_writeResult_agree {rd : RegNum} {v : Byte} {row : FlagRow} {s t s' t' : State} {f : Flag} (hwf : s.cfg.wf = true)
    (hm : s.cfg.flagModel = .conventional) (hcfg : s'.cfg = s.cfg) (ht : writeResult rd v row s = .next t)
    (ht' : writeResult rd v row s' = .next t') (hrow : row.value f ≠ none) : t.flag f = t'.flag f := by
  rw [writeResult_next_iff.1 ht, writeResult_next_iff.1 ht', flag_advance, flag_advance]
  exact flag_writeFlags_agree (by simpa using hwf) (by simpa using hm) (by simpa using hcfg) hrow

theorem flag_compareSum_agree {x : BitVec 9} {s t s' t' : State} (hwf : s.cfg.wf = true) (hm : s.cfg.flagModel = .conventional)
    (hcfg : s'.cfg = s.cfg) (ht : compareSum x s = .next t) (ht' : compareSum x s' = .next t') (f : Flag) : t.flag f = t'.flag f := by
  rw [compareSum_next_iff.1 ht, compareSum_next_iff.1 ht', flag_advance, flag_advance]
  exact flag_writeFlags_agree hwf hm hcfg (by cases f <;> exact nofun)

theorem logicRow_value_ne_none {v : Byte} {f : Flag} (hf : f ∈ [Flag.z, Flag.n]) : (logicRow v).value f ≠ none := by
  cases f
  · exact absurd hf (by decide)
  · exact nofun
  · exact nofun

theorem flagsWritten_branch (cond : Cond) (a : BitVec 9) : flagsWritten (.branch cond a) = [] := by cases cond <;> rfl
theorem flagsWritten_indirect (cond : Cond) (p : PairNum) : flagsWritten (.indirect cond p) = [] := by cases cond <;> rfl
theorem flagsWritten_jump (cond : Cond) (a : Word) : flagsWritten (.jump cond a) = [] := by cases cond <;> rfl
theorem flagsWritten_callTo (cond : Cond) (a : Word) : flagsWritten (.callTo cond a) = [] := by cases cond <;> rfl
theorem flagsWritten_returnOn (cond : Cond) : flagsWritten (.returnOn cond) = [] := by cases cond <;> rfl

/-- The flags an instruction writes under FLAG_MODEL = conventional come from registers and immediates, where it reads no `s`. -/
theorem flags_agree_of_not_reads {i : Instr} {s t u : State} {v : Status} (hi : ¬ReadsStatus i) (hwf : s.cfg.wf = true)
    (hm : s.cfg.flagModel = .conventional) (ht : exec i s = .next t) (hu : exec i (s.setStatus v) = .next u) {f : Flag}
    (hf : f ∈ flagsWritten i) : t.flag f = u.flag f := by
  cases i using Instr.byFamily
  case branch cond a => simp [flagsWritten_branch] at hf
  case indirect cond p => simp [flagsWritten_indirect] at hf
  case jump cond a => simp [flagsWritten_jump] at hf
  case callTo cond a => simp [flagsWritten_callTo] at hf
  case returnOn cond => simp [flagsWritten_returnOn] at hf
  case ani | ori | xoi | and | or | xor | not =>
    exact flag_writeResult_agree hwf hm (State.setStatus_cfg s v) ht hu (logicRow_value_ne_none hf)
  case adi | add | sub | sll | srl | sra =>
    exact flag_writeResult_agree hwf hm (State.setStatus_cfg s v) ht hu (by cases f <;> exact nofun)
  case cpi | cmp => exact flag_compareSum_agree hwf hm (State.setStatus_cfg s v) ht hu f
  case aci rd b => exact absurd (.inl ⟨rd, b, rfl⟩) hi
  case adc rd rs => exact absurd (.inr (.inl ⟨rd, rs, rfl⟩)) hi
  case sbb rd rs => exact absurd (.inr (.inr (.inl ⟨rd, rs, rfl⟩))) hi
  case rlc rd => exact absurd (.inr (.inr (.inr (.inl ⟨rd, rfl⟩)))) hi
  case rrc rd => exact absurd (.inr (.inr (.inr (.inr (.inl ⟨rd, rfl⟩))))) hi
  all_goals exact absurd hf List.not_mem_nil

/-! ### The obligations -/

theorem alike_setStatus (s : State) (v : Status) : Alike s (s.setStatus v) :=
  ⟨rfl, rfl, rfl, rfl, rfl, rfl, rfl, rfl, rfl, rfl, fun _ => rfl⟩

theorem alike_withFlagModel (s : State) : Alike (s.withFlagModel .conventional) (s.withFlagModel .havoc) :=
  ⟨rfl, rfl, rfl, rfl, rfl, rfl, rfl, rfl, rfl, rfl, fun _ => rfl⟩

theorem Alike.sameButFlags {t u : State} (h : Alike t u) : SameButFlags t u := by
  obtain ⟨hregs, hpc, hstk, hhalted, hdmem, hiolog, hfault, himem, hcfg, hreads, -⟩ := h
  cases u
  simp only at hregs hpc hstk hhalted hdmem hiolog hfault himem hcfg hreads
  subst hregs hpc hstk hhalted hdmem hiolog hfault himem hreads
  simp only [SameButFlags, State.mk.injEq, true_and, and_true]
  exact hcfg

/-- With the same parameters, two states that are alike differ in `s` alone. -/
theorem Alike.sameButStatus {t u : State} (h : Alike t u) (hcfg : u.cfg = t.cfg) : SameButStatus t u := by
  have hdraws := h.draws (by rw [hcfg])
  obtain ⟨hregs, hpc, hstk, hhalted, hdmem, hiolog, hfault, himem, -, hreads, -⟩ := h
  cases u
  simp only at hregs hpc hstk hhalted hdmem hiolog hfault himem hcfg hreads hdraws
  subst hregs hpc hstk hhalted hdmem hiolog hfault himem hcfg hreads hdraws
  rfl

/-- Settles O22: the two states are alike, and no instruction writes the parameters. -/
theorem onlyReadersDependOnTheStatusRegister : Obligations.OnlyReadersDependOnTheStatusRegister := by
  unfold Obligations.OnlyReadersDependOnTheStatusRegister
  intro i s v hi
  refine ⟨?outcomes, fun t u hwf hm ht hu f hf => flags_agree_of_not_reads hi hwf hm ht hu hf⟩
  refine (exec_alike (alike_setStatus s v) fun h => absurd h hi).mono fun t u ht hu h => h.sameButStatus ?_
  obtain ⟨-, ht', -⟩ := (exec_nextForm ht).program_kept
  obtain ⟨-, hu', -⟩ := (exec_nextForm hu).program_kept
  rw [ht', hu', State.setStatus_cfg]

/-- Settles O23: the two states are alike, with the same `s`. -/
theorem flagModelChangesOnlyFlags : Obligations.FlagModelChangesOnlyFlags := by
  unfold Obligations.FlagModelChangesOnlyFlags
  exact fun i s => (exec_alike (alike_withFlagModel s) fun _ => rfl).mono fun _ _ _ _ h => h.sameButFlags

end Sys2Proof.Machine

/-! PROOFS. Results written to one register with their flags (10_state.md R29): copies, logic, additions, subtractions, compares, shifts and rotates (40, 42, 45). -/

namespace Sys2Proof.Machine

/-! ### What the shapes leave -/

theorem writeResult_leaves {row : FlagRow} {flags : List Flag} (hrow : row.Within flags) (rd : RegNum) (v : Byte) (s : State) :
    ∃ t, writeResult rd v row s = .next t ∧ WritesResult rd v flags s t := by
  obtain ⟨hc, hz, hn⟩ := hrow
  exact ⟨_, rfl, writesResult_writeReg s rd v row flags hc hz hn⟩

theorem writeLogic_leaves {s : State} (hwf : s.cfg.wf = true) (rd : RegNum) (v : Byte) :
    ∃ t, writeLogic rd v s = .next t ∧ LogicLeaves rd v s t := by
  have hrow : (logicRow v).Within [.z, .n] := ⟨fun h => absurd rfl h, by simp, by simp⟩
  obtain ⟨t, ht, hres⟩ := writeResult_leaves hrow rd v s
  refine ⟨t, ht, hres, fun hm => ?_⟩
  obtain ⟨-, hz, hn⟩ := flags_writeReg_conventional rd v (logicRow v) hwf hm
  rw [writeResult_next_iff.1 ht]
  exact ⟨hz, hn⟩

/-- A row that gives all three flags a value, Z and N from the result. -/
def fullRow (carry : Bool) (v : Byte) (stated : Bool) : FlagRow := ⟨some carry, some (v == 0), some v.msb, stated⟩

theorem fullRow_within (carry : Bool) (v : Byte) (stated : Bool) : (fullRow carry v stated).Within [.c, .z, .n] :=
  ⟨by simp, by simp, by simp⟩

theorem writeResult_fullRow_leaves {s : State} (hwf : s.cfg.wf = true) (rd : RegNum) (v : Byte) (carry stated : Bool) :
    ∃ t, writeResult rd v (fullRow carry v stated) s = .next t ∧ SumLeaves rd v carry s t := by
  obtain ⟨t, ht, hres⟩ := writeResult_leaves (fullRow_within carry v stated) rd v s
  refine ⟨t, ht, hres, fun hm => ?_⟩
  rw [writeResult_next_iff.1 ht]
  exact flags_writeReg_conventional rd v (fullRow carry v stated) hwf hm

theorem writeSum_leaves {s : State} {x : BitVec 9} {v : Byte} {carry : Bool} (hwf : s.cfg.wf = true) (hv : sumByte x = v)
    (hc : carryOut x = carry) (rd : RegNum) : ∃ t, writeSum rd x s = .next t ∧ SumLeaves rd v carry s t := by
  subst hv hc
  exact writeResult_fullRow_leaves hwf rd (sumByte x) (carryOut x) false

theorem compareSum_leaves {s : State} {a b : Byte} (hwf : s.cfg.wf = true) {x : BitVec 9} (hv : sumByte x = a - b)
    (hc : carryOut x = decide (b.toNat ≤ a.toNat)) : ∃ t, compareSum x s = .next t ∧ CompareLeaves a b s t := by
  refine ⟨_, rfl, by simp, ⟨regsKept_of_eq (by simp), ?_, fun _ => dataByte_congr (by simp) _, by simp [StackKept], by simp [IoKept],
    by simp [RunKept]⟩, by simp [DrawCounted, writeFlags_flagDraws], fun hm => ⟨?_, ?_, ?_⟩⟩
  · intro j hj
    exact writeFlags_status_unnamed s _ fun f => hj f (by cases f <;> simp)
  · rw [flag_advance, flag_writeFlags_conventional _ hwf hm, ← hc]
    rfl
  · rw [flag_advance, flag_writeFlags_conventional _ hwf hm]
    change (sumByte x == 0) = (a == b)
    rw [hv, Bool.eq_iff_iff, beq_iff_eq, beq_iff_eq]
    exact sub_eq_zero
  · rw [flag_advance, flag_writeFlags_conventional _ hwf hm, ← hv]
    rfl

/-! ### The adder as arithmetic on bytes -/

/-- `x + y` with a carry in (00_scope.md R15). -/
theorem sumByte_add (a b : Byte) (c : Bool) : sumByte (add9 a b c) = a + b + BitVec.ofNat 8 c.toNat := by
  rw [sumByte_add9]
  apply BitVec.eq_of_toNat_eq
  simp

/-- `x + ~y + c` is the difference less the pending borrow (42 R143, R144). -/
theorem sumByte_sub (a b : Byte) (c : Bool) : sumByte (add9 a (~~~b) c) = a - b - BitVec.ofNat 8 (1 - c.toNat) := by
  rw [sumByte_add9]
  apply BitVec.eq_of_toNat_eq
  have ha := a.isLt
  have hb := b.isLt
  cases c <;> simp <;> omega

/-- Its carry is set exactly when there is no borrow. -/
theorem carryOut_sub (a b : Byte) (c : Bool) :
    carryOut (add9 a (~~~b) c) = decide (b.toNat + (1 - c.toNat) ≤ a.toNat) := by
  have ha := a.isLt
  have hb := b.isLt
  have hc : c.toNat ≤ 1 := Bool.toNat_le c
  rw [carryOut_add9, BitVec.toNat_not, decide_eq_decide]
  omega

/-! ### Copies, logic, additions, subtractions, compares -/

/-- Settles O25: both are a register result with no flag. -/
theorem ldiAndMovCopyTheirOperand : Obligations.LdiAndMovCopyTheirOperand := by
  unfold Obligations.LdiAndMovCopyTheirOperand
  exact fun s rd rs i => ⟨writeResult_leaves keepRow_within rd i s, writeResult_leaves keepRow_within rd (s.readReg rs) s⟩

/-- Settles O26: the seven are one shape with its own result. -/
theorem logicInstructionsWriteResultZeroAndNegative : Obligations.LogicInstructionsWriteResultZeroAndNegative := by
  unfold Obligations.LogicInstructionsWriteResultZeroAndNegative
  intro s rd rs i hwf
  have hlogic := writeLogic_leaves hwf rd
  exact ⟨hlogic _, hlogic _, hlogic _, hlogic _, hlogic _, hlogic _, hlogic _⟩

theorem exec_add_leaves {s : State} (hwf : s.cfg.wf = true) (rd rs : RegNum) :
    ∃ t, exec (.add rd rs) s = .next t ∧
      SumLeaves rd (s.readReg rd + s.readReg rs) (decide (256 ≤ (s.readReg rd).toNat + (s.readReg rs).toNat)) s t :=
  writeSum_leaves hwf (by simp [sumByte_add]) (carryOut_add9 ..) rd

theorem exec_adc_leaves {s : State} (hwf : s.cfg.wf = true) (rd rs : RegNum) :
    ∃ t, exec (.adc rd rs) s = .next t ∧
      SumLeaves rd (s.readReg rd + s.readReg rs + BitVec.ofNat 8 (s.flag .c).toNat)
        (decide (256 ≤ (s.readReg rd).toNat + (s.readReg rs).toNat + (s.flag .c).toNat)) s t :=
  writeSum_leaves hwf (sumByte_add ..) (carryOut_add9 ..) rd

/-- Settles O27: the adder gives the sum and its carry. -/
theorem additionsWriteSumAndCarry : Obligations.AdditionsWriteSumAndCarry := by
  unfold Obligations.AdditionsWriteSumAndCarry
  exact fun s rd rs i hwf => ⟨writeSum_leaves hwf (by simp [sumByte_add]) (carryOut_add9 ..) rd, exec_add_leaves hwf rd rs,
    writeSum_leaves hwf (sumByte_add ..) (carryOut_add9 ..) rd, exec_adc_leaves hwf rd rs⟩

theorem exec_sub_leaves {s : State} (hwf : s.cfg.wf = true) (rd rs : RegNum) :
    ∃ t, exec (.sub rd rs) s = .next t ∧
      SumLeaves rd (s.readReg rd - s.readReg rs) (decide ((s.readReg rs).toNat ≤ (s.readReg rd).toNat)) s t :=
  writeSum_leaves hwf (by simp [sumByte_sub]) (carryOut_sub ..) rd

theorem exec_sbb_leaves {s : State} (hwf : s.cfg.wf = true) (rd rs : RegNum) :
    ∃ t, exec (.sbb rd rs) s = .next t ∧
      SumLeaves rd (s.readReg rd - s.readReg rs - BitVec.ofNat 8 (1 - (s.flag .c).toNat))
        (decide ((s.readReg rs).toNat + (1 - (s.flag .c).toNat) ≤ (s.readReg rd).toNat)) s t :=
  writeSum_leaves hwf (sumByte_sub ..) (carryOut_sub ..) rd

/-- Settles O28: the adder on the complement gives the difference and the absence of a borrow. -/
theorem subtractionsWriteDifferenceAndNoBorrow : Obligations.SubtractionsWriteDifferenceAndNoBorrow := by
  unfold Obligations.SubtractionsWriteDifferenceAndNoBorrow
  exact fun s rd rs hwf => ⟨exec_sub_leaves hwf rd rs, exec_sbb_leaves hwf rd rs⟩

/-- Settles O29: a compare is the subtraction of SUB, of which the flags are kept. -/
theorem comparesWriteFlagsAndNoRegister : Obligations.ComparesWriteFlagsAndNoRegister := by
  unfold Obligations.ComparesWriteFlagsAndNoRegister
  intro s rd rs i hwf
  exact ⟨compareSum_leaves hwf (by simp [sumByte_sub]) (carryOut_sub ..),
    compareSum_leaves hwf (by simp [sumByte_sub]) (carryOut_sub ..)⟩

/-! ### Shifts -/

theorem shiftLeftIn_false (v : Byte) : shiftLeftIn v false = v <<< 1 := by
  apply BitVec.eq_of_toNat_eq
  simp [shiftLeftIn_toNat, Nat.shiftLeft_eq, Nat.mul_comm]

theorem shiftRightIn_false (v : Byte) : shiftRightIn false v = v >>> 1 := by
  apply BitVec.eq_of_toNat_eq
  simp [shiftRightIn_toNat, Nat.shiftRight_eq_div_pow]

/-- Shifting right with the top bit kept is the arithmetic shift (45 R183). -/
theorem shiftRightIn_top (v : Byte) : shiftRightIn (v.getLsbD 7) v = v.sshiftRight 1 := by
  ext j hj
  rw [BitVec.getElem_sshiftRight, shiftRightIn, BitVec.getElem_append]
  split
  case isTrue hlow => simp [show 1 + j < 8 by omega, BitVec.getLsbD_eq_getElem]
  case isFalse hhigh =>
    obtain rfl : j = 7 := by omega
    simp [BitVec.msb_eq_getLsbD_last]

/-- Settles O49: each is a register result with the full row of flags. -/
theorem shiftsWriteResultAndTheBitShiftedOut : Obligations.ShiftsWriteResultAndTheBitShiftedOut := by
  unfold Obligations.ShiftsWriteResultAndTheBitShiftedOut
  intro s rd hwf
  simp only [← shiftLeftIn_false, ← shiftRightIn_false, ← shiftRightIn_top]
  exact ⟨writeResult_fullRow_leaves hwf rd _ _ false, writeResult_fullRow_leaves hwf rd _ _ false,
    writeResult_fullRow_leaves hwf rd _ _ false⟩

/-! ### Rotates -/

theorem rlc_ring (v : Byte) (c : Bool) : BitVec.ofBool (v.getLsbD 7) ++ shiftLeftIn v c = (v ++ BitVec.ofBool c).cast (by decide) := by
  have hv : BitVec.ofBool (v.getLsbD 7) ++ v.extractLsb' 0 7 = v := by
    rw [← extract_one]
    exact (BitVec.extractLsb'_append_extractLsb'_eq_extractLsb' rfl).trans BitVec.extractLsb'_eq_self
  have hassoc := BitVec.append_assoc (x₁ := BitVec.ofBool (v.getLsbD 7)) (x₂ := v.extractLsb' 0 7) (x₃ := BitVec.ofBool c)
  rw [hv] at hassoc
  rw [hassoc]
  rfl

theorem rrc_ring (v : Byte) (c : Bool) : shiftRightIn c v ++ BitVec.ofBool (v.getLsbD 0) = (BitVec.ofBool c ++ v).cast (by decide) := by
  have hv : v.extractLsb' 1 7 ++ BitVec.ofBool (v.getLsbD 0) = v := by
    rw [← extract_one]
    exact (BitVec.extractLsb'_append_extractLsb'_eq_extractLsb' rfl).trans BitVec.extractLsb'_eq_self
  have hassoc := BitVec.append_assoc (x₁ := BitVec.ofBool c) (x₂ := v.extractLsb' 1 7) (x₃ := BitVec.ofBool (v.getLsbD 0))
  rw [hv] at hassoc
  exact hassoc

/-- What a rotate leaves: the result, the C that the source states under both flag models, Z and N from the result. -/
theorem rotate_leaves {s : State} (hwf : s.cfg.wf = true) (rd : RegNum) (v : Byte) (carry : Bool) :
    ∃ t, writeResult rd v (rotateRow carry v) s = .next t ∧ t.readReg rd = v ∧ t.flag .c = carry ∧ t.cfg = s.cfg ∧
      WritesResult rd v [.c, .z, .n] s t ∧ (s.cfg.flagModel = .conventional → ZeroNegativeOf v t) := by
  obtain ⟨t, ht, hres, hflags⟩ := writeResult_fullRow_leaves hwf rd v carry true
  have hc : t.flag .c = carry := by
    rw [writeResult_next_iff.1 ht, flag_advance]
    exact writeFlags_statedCarry (row := fullRow carry v true) (flagBitsDistinct_of_wf hwf) rfl
  have hcfg : t.cfg = s.cfg := by simp [writeResult_next_iff.1 ht]
  exact ⟨t, ht, hres.1, hc, hcfg, hres, fun hm => (hflags hm).2⟩

theorem exec_rlc_leaves {s : State} (hwf : s.cfg.wf = true) (rd : RegNum) :
    ∃ t, exec (.rlc rd) s = .next t ∧ t.readReg rd = shiftLeftIn (s.readReg rd) (s.flag .c) ∧
      t.flag .c = (s.readReg rd).getLsbD 7 ∧ t.cfg = s.cfg ∧ WritesResult rd (shiftLeftIn (s.readReg rd) (s.flag .c)) [.c, .z, .n] s t ∧
      (s.cfg.flagModel = .conventional → ZeroNegativeOf (shiftLeftIn (s.readReg rd) (s.flag .c)) t) :=
  rotate_leaves hwf rd _ _

theorem exec_rrc_leaves {s : State} (hwf : s.cfg.wf = true) (rd : RegNum) :
    ∃ t, exec (.rrc rd) s = .next t ∧ t.readReg rd = shiftRightIn (s.flag .c) (s.readReg rd) ∧
      t.flag .c = (s.readReg rd).getLsbD 0 ∧ t.cfg = s.cfg ∧ WritesResult rd (shiftRightIn (s.flag .c) (s.readReg rd)) [.c, .z, .n] s t ∧
      (s.cfg.flagModel = .conventional → ZeroNegativeOf (shiftRightIn (s.flag .c) (s.readReg rd)) t) :=
  rotate_leaves hwf rd _ _

/-- The nine bits that RLC turns, C above `rd` (45 R184). -/
def State.carryOver (s : State) (rd : RegNum) : BitVec 9 := BitVec.ofBool (s.flag .c) ++ s.readReg rd

/-- The nine bits that RRC turns, C below `rd` (45 R185). -/
def State.carryUnder (s : State) (rd : RegNum) : BitVec 9 := s.readReg rd ++ BitVec.ofBool (s.flag .c)

/-- The top bit moved below the others. -/
def turnLeft (x : BitVec 9) : BitVec 9 := x.extractLsb' 0 8 ++ x.extractLsb' 8 1

/-- The bottom bit moved above the others. -/
def turnRight (x : BitVec 9) : BitVec 9 := x.extractLsb' 0 1 ++ x.extractLsb' 1 8

theorem turnLeft_nine : ∀ x : BitVec 9, turnLeft^[9] x = x := by decide
theorem turnRight_nine : ∀ x : BitVec 9, turnRight^[9] x = x := by decide

theorem turnLeft_append (b : BitVec 1) (v : Byte) : turnLeft (b ++ v) = v ++ b := by
  rw [turnLeft, BitVec.extractLsb'_append_eq_right, BitVec.extractLsb'_append_eq_left]

theorem turnRight_append (v : Byte) (b : BitVec 1) : turnRight (v ++ b) = b ++ v := by
  rw [turnRight, BitVec.extractLsb'_append_eq_right, BitVec.extractLsb'_append_eq_left]

/-- An instruction that completes in every state with legal parameters, and acts as `f` on a part of the state, acts `n` times over as `f` iterated. -/
theorem execTimes_iterate {α : Type} {i : Instr} {part : State → α} {f : α → α}
    (h : ∀ s : State, s.cfg.wf = true → ∃ t, exec i s = .next t ∧ t.cfg = s.cfg ∧ part t = f (part s)) :
    ∀ (n : Nat) (s : State), s.cfg.wf = true → ∃ t, execTimes n i s = .next t ∧ part t = f^[n] (part s) := by
  intro n
  induction n with
  | zero => exact fun s _ => ⟨s, rfl, rfl⟩
  | succ n ih =>
    intro s hwf
    obtain ⟨t, ht, hcfg, hpart⟩ := h s hwf
    obtain ⟨u, hu, hpart'⟩ := ih t (hcfg ▸ hwf)
    exact ⟨u, by rw [execTimes, ht, ← hu], by rw [hpart', hpart, Function.iterate_succ_apply]⟩

theorem exec_rlc_turns (rd : RegNum) (s : State) (hwf : s.cfg.wf = true) :
    ∃ t, exec (.rlc rd) s = .next t ∧ t.cfg = s.cfg ∧ t.carryOver rd = turnLeft (s.carryOver rd) := by
  obtain ⟨t, ht, hr, hc, hcfg, -⟩ := exec_rlc_leaves hwf rd
  refine ⟨t, ht, hcfg, ?_⟩
  rw [State.carryOver, hr, hc, rlc_ring, State.carryOver, turnLeft_append]
  rfl

theorem exec_rrc_turns (rd : RegNum) (s : State) (hwf : s.cfg.wf = true) :
    ∃ t, exec (.rrc rd) s = .next t ∧ t.cfg = s.cfg ∧ t.carryUnder rd = turnRight (s.carryUnder rd) := by
  obtain ⟨t, ht, hr, hc, hcfg, -⟩ := exec_rrc_leaves hwf rd
  refine ⟨t, ht, hcfg, ?_⟩
  rw [State.carryUnder, hr, hc, rrc_ring, State.carryUnder, turnRight_append]
  rfl

theorem carryOver_inj {s t : State} {rd : RegNum} (h : t.carryOver rd = s.carryOver rd) :
    t.readReg rd = s.readReg rd ∧ t.flag .c = s.flag .c := by
  have hr := congrArg (BitVec.extractLsb' 0 8) h
  have hc := congrArg (BitVec.extractLsb' 8 1) h
  rw [State.carryOver, State.carryOver, BitVec.extractLsb'_append_eq_right, BitVec.extractLsb'_append_eq_right] at hr
  rw [State.carryOver, State.carryOver, BitVec.extractLsb'_append_eq_left, BitVec.extractLsb'_append_eq_left] at hc
  exact ⟨hr, BitVec.ofBool_eq_iff_eq.1 hc⟩

theorem carryUnder_inj {s t : State} {rd : RegNum} (h : t.carryUnder rd = s.carryUnder rd) :
    t.readReg rd = s.readReg rd ∧ t.flag .c = s.flag .c := by
  have hr := congrArg (BitVec.extractLsb' 1 8) h
  have hc := congrArg (BitVec.extractLsb' 0 1) h
  rw [State.carryUnder, State.carryUnder, BitVec.extractLsb'_append_eq_left, BitVec.extractLsb'_append_eq_left] at hr
  rw [State.carryUnder, State.carryUnder, BitVec.extractLsb'_append_eq_right, BitVec.extractLsb'_append_eq_right] at hc
  exact ⟨hr, BitVec.ofBool_eq_iff_eq.1 hc⟩

/-- Settles O50: one rotate turns the nine bits of C and `rd` by one place, and nine places are the whole way round. -/
theorem rotatesTurnTheNineBitsOfCarryAndRegister : Obligations.RotatesTurnTheNineBitsOfCarryAndRegister := by
  unfold Obligations.RotatesTurnTheNineBitsOfCarryAndRegister
  intro s rd hwf
  refine ⟨?rlc, ?rrc, ?rlcNine, ?rrcNine⟩
  case rlc =>
    obtain ⟨t, ht, hr, hc, -, hres, hzn⟩ := exec_rlc_leaves hwf rd
    refine ⟨t, ht, by rw [hc, hr, rlc_ring], ?_, ?_⟩
    · rwa [hr]
    · rwa [hr]
  case rrc =>
    obtain ⟨t, ht, hr, hc, -, hres, hzn⟩ := exec_rrc_leaves hwf rd
    refine ⟨t, ht, by rw [hc, hr, rrc_ring], ?_, ?_⟩
    · rwa [hr]
    · rwa [hr]
  case rlcNine =>
    obtain ⟨t, ht, hring⟩ := execTimes_iterate (exec_rlc_turns rd) 9 s hwf
    exact ⟨t, ht, carryOver_inj (hring.trans (turnLeft_nine _))⟩
  case rrcNine =>
    obtain ⟨t, ht, hring⟩ := execTimes_iterate (exec_rrc_turns rd) 9 s hwf
    exact ⟨t, ht, carryUnder_inj (hring.trans (turnRight_nine _))⟩

end Sys2Proof.Machine

/-! PROOFS. Ports, pairs, loads and stores (41, 43, 20_memory.md): what each instruction leaves where it completes, and what a load reads after a store. -/

namespace Sys2Proof.Machine

/-! ### A result that writes no flag of its own -/

/-- Where a row gives no flag a value, `s` stays but for what is left to a draw. -/
theorem statusKept_keepRow {s u : State} (hs : u.status = s.status) (hcfg : u.cfg = s.cfg) :
    StatusKept (drawnFlags s) s ((u.writeFlags keepRow).advance 1) := by
  intro j hj
  obtain ⟨hc, hz, hn⟩ := keepRow_within (flags := [])
  have hkept := statusKept_writeFlags u keepRow [] hc hz hn j (by simpa [drawnFlags, hcfg] using hj)
  simpa [hs] using hkept

theorem drawCounted_writeFlags {s u : State} {row : FlagRow} (hd : u.flagDraws = s.flagDraws) (hcfg : u.cfg = s.cfg) :
    DrawCounted s ((u.writeFlags row).advance 1) := by
  simp [DrawCounted, writeFlags_flagDraws, hd, hcfg]

theorem regsKept_writeReg (s : State) (rd : RegNum) (v : Byte) : RegsKept [rd] s (s.writeReg rd v) := by
  intro r hr
  exact readReg_writeReg_other s v (by simpa using hr)

theorem RegsKept.mono {regs regs' : List RegNum} {s t : State} (h : RegsKept regs s t) (hsub : ∀ r ∈ regs, r ∈ regs') :
    RegsKept regs' s t :=
  fun r hr => h r fun hmem => hr (hsub r hmem)

theorem RegsKept.trans {regs : List RegNum} {s t u : State} (h : RegsKept regs s t) (h' : RegsKept regs t u) : RegsKept regs s u :=
  fun r hr => (h' r hr).trans (h r hr)

/-! ### Ports -/

theorem exec_inp (rd : RegNum) (io : Byte) (s : State) :
    exec (.inp rd io) s = .next ((((s.ioRead io).2.writeReg rd (s.ioAnswer io)).writeFlags keepRow).advance 1) := rfl

theorem envState_inp {rd : RegNum} {io : Byte} {s t : State} (h : exec (.inp rd io) s = .next t) :
    t.envState = evalEnv s.envState io (s.ioAnswer io) 0 s.cfg.environment.afterRead := by
  obtain rfl := Host.Outcome.next.inj ((exec_inp rd io s).symm.trans h)
  exact envState_snoc (e := .input io (s.ioAnswer io)) (by simp [ioRead_log]) (by simp)

theorem envState_out {rs : RegNum} {io : Byte} {s t : State} (h : exec (.out rs io) s = .next t) :
    t.envState = evalEnv s.envState io (s.readReg rs) 0 s.cfg.environment.afterWrite := by
  obtain rfl := Host.Outcome.next.inj ((exec_out rs io s).symm.trans h)
  exact envState_snoc (e := .output io (s.readReg rs)) (by simp [ioWrite_log]) (by simp)

/-- Settles O30: IN is IoRead and a register result with no flag; the environment moves by the event logged. -/
theorem inWritesTheAnswerAndLogsIt : Obligations.InWritesTheAnswerAndLogsIt := by
  unfold Obligations.InWritesTheAnswerAndLogsIt
  intro s rd io
  refine ⟨⟨_, exec_inp rd io s, by simp, by simp [ioRead_log], by simp, by simp, ?regs, statusKept_keepRow (by simp) (by simp),
    fun a => dataByte_congr (by simp) a, by simp [StackKept], by simp [RunKept], drawCounted_writeFlags (by simp) (by simp)⟩, rfl,
    fun h => ioAnswer_unconstrained h io, fun h => by rw [State.envState, h]; rfl, fun t => envState_inp, fun t => envState_out⟩
  case regs =>
    intro r hr
    simpa [readReg_congr (ioRead_regs s io)] using regsKept_writeReg (s.ioRead io).2 rd (s.ioAnswer io) r hr

/-! ### Pairs -/

theorem evenReg_toNat : ∀ p : PairNum, (evenReg p).toNat = 2 * p.toNat := by decide
theorem oddReg_toNat : ∀ p : PairNum, (oddReg p).toNat = 2 * p.toNat + 1 := by decide

/-- Two pairs have no register in common. -/
theorem inPair_other : ∀ p q : PairNum, q ≠ p → inPair (evenReg q) p = false ∧ inPair (oddReg q) p = false := by decide

theorem inPair_high_low_other (cfg : Config) {p q : PairNum} (h : q ≠ p) :
    inPair (highReg cfg q) p = false ∧ inPair (lowReg cfg q) p = false := by
  obtain ⟨heven, hodd⟩ := inPair_other p q h
  unfold highReg lowReg
  cases cfg.pairHigh
  · exact ⟨hodd, heven⟩
  · exact ⟨heven, hodd⟩

theorem readPair_writePair_other (s : State) {p q : PairNum} (v : Word) (h : q ≠ p) : (s.writePair p v).readPair q = s.readPair q := by
  obtain ⟨hhigh, hlow⟩ := inPair_high_low_other s.cfg h
  rw [State.readPair, writePair_cfg, readReg_writePair_other s p v hhigh, readReg_writePair_other s p v hlow, State.readPair]

/-- Settles O32: by the laws of pairs. -/
theorem pairsAreTwoRegisters : Obligations.PairsAreTwoRegisters := by
  unfold Obligations.PairsAreTwoRegisters
  intro s p v
  refine ⟨fun h => ?odd, fun h => ?even, evenReg_toNat p, oddReg_toNat p, readPair_writePair_same s p v, regsKept_writePair s p v,
    fun q hq => readPair_writePair_other s v hq⟩
  case odd => simpa [highReg, lowReg, h] using readPair_toNat s p
  case even => simpa [highReg, lowReg, h] using readPair_toNat s p

theorem readReg_writePair_readPair (s : State) (p q : PairNum) :
    (s.writePair p (s.readPair q)).readReg (evenReg p) = s.readReg (evenReg q) ∧
      (s.writePair p (s.readPair q)).readReg (oddReg p) = s.readReg (oddReg q) := by
  have hhigh := readReg_writePair_high s p (s.readPair q)
  have hlow := readReg_writePair_low s p (s.readPair q)
  rw [readPair_high] at hhigh
  rw [readPair_low] at hlow
  unfold highReg at hhigh
  unfold lowReg at hlow
  cases hp : s.cfg.pairHigh <;> simp only [hp] at hhigh hlow
  · exact ⟨hlow, hhigh⟩
  · exact ⟨hhigh, hlow⟩

/-- An instruction that writes one pair and no flag. -/
theorem onlyRegs_writePair (s : State) (p : PairNum) (v : Word) :
    OnlyRegs (pairRegs p) s (((s.writePair p v).writeFlags keepRow).advance 1) :=
  onlyRegs_keepRow (regsKept_writePair s p v) rfl rfl rfl ⟨rfl, rfl⟩ rfl rfl ⟨rfl, rfl, rfl, rfl⟩

/-- Settles O57: the pair written takes both bytes, in whichever order PAIR_HIGH names them. -/
theorem mvpCopiesBothRegistersOfAPair : Obligations.MvpCopiesBothRegistersOfAPair := by
  unfold Obligations.MvpCopiesBothRegistersOfAPair
  intro s pd ps
  obtain ⟨heven, hodd⟩ := readReg_writePair_readPair s pd ps
  exact ⟨_, rfl, by simpa using heven, by simpa using hodd, by simp, onlyRegs_writePair s pd (s.readPair ps)⟩

/-- Settles O37: where the immediate has a reading, API writes one pair. -/
theorem addPairImmediateCompletes : Obligations.AddPairImmediateCompletes := by
  unfold Obligations.AddPairImmediateCompletes
  intro s p i imm himm
  exact ⟨_, execApi_next_iff.2 ⟨imm, himm, rfl⟩, by simp, onlyRegs_writePair s p (s.readPair p + imm)⟩

/-! ### Widening -/

/-- Settles O38: the three extensions as arithmetic; the top bit is the upper half of the values. -/
theorem offsetsAndImmediatesAreWidenedAsTheParameterSays : Obligations.OffsetsAndImmediatesAreWidenedAsTheParameterSays := by
  unfold Obligations.OffsetsAndImmediatesAreWidenedAsTheParameterSays
  refine ⟨fun n v hn hn16 => ?_, rfl, rfl, rfl⟩
  have hpow : 2 ^ n ≤ 2 ^ 16 := Nat.pow_le_pow_right (by decide) hn16
  have hfits : (v.setWidth 16).toNat = v.toNat := by
    rw [BitVec.toNat_setWidth, Nat.mod_eq_of_lt (lt_of_lt_of_le v.isLt hpow)]
  refine ⟨⟨_, rfl, BitVec.toInt_signExtend_of_le hn16⟩, ⟨_, rfl, hfits⟩, fun hlt => ⟨_, ?_, hfits⟩, fun hle => ?_⟩
  · refine widen_ok_iff.2 (.inr (.inr ⟨rfl, ?_, rfl⟩))
    rw [BitVec.msb_eq_decide, decide_eq_false_iff_not]
    exact Nat.not_le.2 hlt
  · exact widen_error_iff_le.2 ⟨rfl, hle, rfl⟩

/-! ### Stores -/

/-- What a store leaves that then writes the registers `regs` and no flag of its own. -/
theorem storeLeaves_of_write {s t : State} {addr : Word} {v : Byte} {regs : List RegNum} {flags : List Flag}
    (hwf : Memory.wf s.dmem = true) (hd : t.dmem = Memory.write s.dmem addr.toNat v) (hpc : t.pc = s.pc + 1)
    (hr : RegsKept regs s t) (hst : StatusKept flags s t) (hk : StackKept s t) (hio : IoKept s t) (hrun : RunKept s t) :
    StoreLeaves addr v regs flags s t := by
  have hbyte : ∀ a, t.dataByte a = if a = addr then v else s.dataByte a := fun a =>
    (dataByte_congr (s := s.setDmem (Memory.write s.dmem addr.toNat v)) (by rw [hd]; rfl) a).trans (dataByte_store hwf addr v a)
  exact ⟨by rw [hbyte, if_pos rfl], fun a ha => by rw [hbyte, if_neg ha], hpc, hr, hst, hk, hio, hrun⟩

theorem storePost_leaves {s : State} {rs : RegNum} {p : PairNum} (hwf : Memory.wf s.dmem = true)
    (hm : dataMapped s.cfg (s.readPair p) = true) (delta : Word) :
    ∃ t, storePost rs p delta s = .next t ∧ t.readPair p = s.readPair p + delta ∧
      StoreLeaves (s.readPair p) (s.readReg rs) (pairRegs p) (drawnFlags s) s t ∧ DrawCounted s t := by
  refine ⟨_, storePost_next_iff.2 ⟨hm, rfl⟩, by simp, ?_, drawCounted_writeFlags (by simp) (by simp)⟩
  refine storeLeaves_of_write hwf (by simp) (by simp) ?regs (statusKept_keepRow (by simp) (by simp)) (by simp [StackKept])
    (by simp [IoKept]) (by simp [RunKept])
  case regs =>
    intro r hr
    simpa using regsKept_writePair (s.setDmem (Memory.write s.dmem (s.readPair p).toNat (s.readReg rs))) p (s.readPair p + delta) r hr

theorem add_neg_one (a : Word) : a + -1 = a - 1 := (sub_eq_add_neg a 1).symm

/-- Settles O33: SRI and SRD are one shape, with the pair moved by 1 and by -1. -/
theorem postModifyingStoresComplete : Obligations.PostModifyingStoresComplete := by
  unfold Obligations.PostModifyingStoresComplete
  intro s rs p hwf hm
  rw [← add_neg_one]
  exact ⟨storePost_leaves hwf hm 1, storePost_leaves hwf hm (-1)⟩

/-- Settles O35: the address is the pair and the widened offset, and the store writes no register and no flag. -/
theorem storeWithOffsetCompletes : Obligations.StoreWithOffsetCompletes := by
  unfold Obligations.StoreWithOffsetCompletes
  intro s rs p k x hwf hx
  have haddr : s.offsetAddress p k = .ok (s.readPair p + x) := offsetAddress_ok_iff.2 ⟨x, hx, rfl⟩
  refine ⟨haddr, fun hm => ⟨_, execStr_next_iff.2 ⟨_, haddr, hm, rfl⟩, ?_, by simp⟩⟩
  exact storeLeaves_of_write hwf (by simp) (by simp) (regsKept_of_eq (by simp)) (statusKept_of_eq (by simp)) (by simp [StackKept])
    (by simp [IoKept]) (by simp [RunKept])

/-! ### Loads -/

theorem loadPost_leaves {s : State} {rd : RegNum} {p : PairNum} (hr : rd ∉ pairRegs p)
    (hm : dataMapped s.cfg (s.readPair p) = true) (delta : Word) :
    ∃ t, loadPost rd p delta s = .next t ∧ t.readReg rd = s.dataByte (s.readPair p) ∧ t.readPair p = s.readPair p + delta ∧
      OnlyRegs (rd :: pairRegs p) s t := by
  have hout := not_mem_pairRegs.1 hr
  refine ⟨_, loadPost_next_iff.2 ⟨hout, hm, rfl⟩, by simp [readReg_writePair_other _ _ _ hout], by simp, ?_⟩
  refine onlyRegs_keepRow (.trans (t := s.writeReg rd (s.dataByte (s.readPair p))) ?_ ?_) rfl rfl rfl ⟨rfl, rfl⟩ rfl rfl
    ⟨rfl, rfl, rfl, rfl⟩
  · exact (regsKept_writeReg s rd _).mono fun r hmem => by simp_all
  · exact (regsKept_writePair _ p _).mono fun r hmem => List.mem_cons_of_mem rd hmem

theorem exec_lrd_leaves {s : State} {rd : RegNum} {p : PairNum} (hr : rd ∉ pairRegs p)
    (hm : dataMapped s.cfg (s.readPair p) = true) :
    ∃ t, exec (.lrd rd p) s = .next t ∧ t.readReg rd = s.dataByte (s.readPair p) ∧ t.readPair p = s.readPair p - 1 ∧
      OnlyRegs (rd :: pairRegs p) s t := by
  rw [← add_neg_one]
  exact loadPost_leaves hr hm (-1)

/-- Settles O34: LRI and LRD are one shape, with the pair moved by 1 and by -1. -/
theorem postModifyingLoadsComplete : Obligations.PostModifyingLoadsComplete := by
  unfold Obligations.PostModifyingLoadsComplete
  exact fun s rd p hr hm => ⟨loadPost_leaves hr hm 1, exec_lrd_leaves hr hm⟩

/-- Settles O36: the address is the pair and the widened offset, and the load writes one register. -/
theorem loadWithOffsetCompletes : Obligations.LoadWithOffsetCompletes := by
  unfold Obligations.LoadWithOffsetCompletes
  intro s rd p k x hx
  have haddr : s.offsetAddress p k = .ok (s.readPair p + x) := offsetAddress_ok_iff.2 ⟨x, hx, rfl⟩
  refine ⟨haddr, fun hm => ⟨_, execLdr_next_iff.2 ⟨_, haddr, hm, rfl⟩, by simp, ?_⟩⟩
  exact onlyRegs_keepRow (regsKept_writeReg s rd _) rfl rfl rfl ⟨rfl, rfl⟩ rfl rfl ⟨rfl, rfl, rfl, rfl⟩

/-! ### A load after a store -/

theorem ldr_after_str {s t : State} {rs : RegNum} {p : PairNum} {k : BitVec 5} (hwf : Memory.wf s.dmem = true)
    (h : exec (.str rs p k) s = .next t) (rd : RegNum) : ∃ u, exec (.ldr rd p k) t = .next u ∧ u.readReg rd = s.readReg rs := by
  obtain ⟨addr, haddr, hm, rfl⟩ := execStr_next_iff.1 h
  have hbyte := dataByte_store hwf addr (s.readReg rs) addr
  rw [if_pos rfl] at hbyte
  refine ⟨_, execLdr_next_iff.2 ⟨addr, haddr, hm, rfl⟩, ?_⟩
  rw [readReg_advance, readReg_writeFlags, readReg_writeReg_same]
  exact hbyte

/-- After SRI the pair is past the byte stored; the first LRD brings it back, and the second reads the byte. -/
theorem lrd_lrd_after_sri {s t : State} {rs rd : RegNum} {p : PairNum} (hwf : Memory.wf s.dmem = true) (hr : rd ∉ pairRegs p)
    (h : exec (.sri rs p) s = .next t) (hm : dataMapped s.cfg (s.readPair p + 1) = true) :
    ∃ u v, exec (.lrd rd p) t = .next u ∧ exec (.lrd rd p) u = .next v ∧ v.readReg rd = s.readReg rs ∧
      v.readPair p = s.readPair p - 1 := by
  obtain ⟨hm0, -⟩ := storePost_next_iff.1 h
  obtain ⟨t', ht', hpair, ⟨hbyte, -, -, -, -, -, -, -, -, -, hcfg⟩, -⟩ := storePost_leaves (rs := rs) hwf hm0 1
  obtain rfl := Host.Outcome.next.inj (h.symm.trans ht')
  obtain ⟨u, hu, -, hpair', -, ⟨-, -, hdata, -, -, -, -, -, hcfg'⟩, -⟩ := exec_lrd_leaves (s := t) hr (by rwa [hcfg, hpair])
  have hback : u.readPair p = s.readPair p := by rw [hpair', hpair, add_sub_cancel_right]
  obtain ⟨v, hv, hread, hpair'', -⟩ := exec_lrd_leaves (s := u) hr (by rwa [hcfg', hcfg, hback])
  exact ⟨u, v, hu, hv, by rw [hread, hback, hdata, hbyte], by rw [hpair'', hback]⟩

/-- Settles O41. -/
theorem loadReadsTheLatestStore : Obligations.LoadReadsTheLatestStore := by
  unfold Obligations.LoadReadsTheLatestStore
  exact ⟨fun s t rs rd p k hwf h => ldr_after_str hwf h rd, fun s t rs rd p hwf hr h hm => lrd_lrd_after_sri hwf hr h hm⟩

/-! ### POP -/

/-- Settles O51: a Byte item on top is the only way POP completes. -/
theorem popTakesAByteItem : Obligations.PopTakesAByteItem := by
  unfold Obligations.PopTakesAByteItem
  intro s rd
  refine ⟨fun b rest hs => ?byte, fun hs => execPop_fault_iff.2 (.inl ⟨hs, rfl⟩),
    fun top rest hs hkind => execPop_fault_iff.2 (.inr ⟨top, rest, hs, hkind, rfl⟩)⟩
  case byte =>
    refine ⟨_, execPop_next_iff.2 ⟨b, rest, hs, rfl⟩, by simp, by simp, by simp, ?regs, statusKept_keepRow (by simp) (by simp),
      fun a => dataByte_congr (by simp) a, by simp [IoKept], by simp [RunKept], drawCounted_writeFlags (by simp) (by simp)⟩
    intro r hr
    simpa using regsKept_writeReg (s.setStk rest) rd b r hr

/-! ### Two-byte arithmetic -/

/-- Results written to the low and then to the high register of a pair: the pair holds both, and the second instruction finds the high registers as they were. -/
theorem pair_of_two_results {s t u : State} {p : PairNum} {low high : Byte} {flags : List Flag}
    (ht : WritesResult (lowReg s.cfg p) low flags s t) (hu : WritesResult (highReg s.cfg p) high flags t u) :
    (u.readPair p).toNat = 256 * high.toNat + low.toNat := by
  obtain ⟨hlow, -, ⟨-, -, -, -, -, -, -, -, hcfg⟩, -⟩ := ht
  obtain ⟨hhigh, -, ⟨hkept, -, -, -, -, -, -, -, hcfg'⟩, -⟩ := hu
  have hlow' : u.readReg (lowReg s.cfg p) = low := (hkept _ (by simpa using (highReg_ne_lowReg s.cfg p p).symm)).trans hlow
  rw [readPair_toNat, hcfg', hcfg, hhigh, hlow']

theorem highReg_kept_of_low_result {s t : State} {p : PairNum} {low : Byte} {flags : List Flag}
    (ht : WritesResult (lowReg s.cfg p) low flags s t) (q : PairNum) : t.readReg (highReg s.cfg q) = s.readReg (highReg s.cfg q) := by
  obtain ⟨-, -, ⟨hkept, -⟩, -⟩ := ht
  exact hkept _ (by simp)

theorem cfg_of_result {s t : State} {rd : RegNum} {v : Byte} {flags : List Flag} (ht : WritesResult rd v flags s t) : t.cfg = s.cfg := by
  obtain ⟨-, -, ⟨-, -, -, -, -, -, -, -, hcfg⟩, -⟩ := ht
  exact hcfg

/-- The sum of two words by their bytes, the carry of the low bytes added to the high ones. -/
theorem add_halves {x y : Word} {xh xl yh yl : Byte} (hx : x.toNat = 256 * xh.toNat + xl.toNat)
    (hy : y.toNat = 256 * yh.toNat + yl.toNat) :
    256 * (xh + yh + BitVec.ofNat 8 (decide (256 ≤ xl.toNat + yl.toNat)).toNat).toNat + (xl + yl).toNat = (x + y).toNat ∧
      decide (256 ≤ xh.toNat + yh.toNat + (decide (256 ≤ xl.toNat + yl.toNat)).toNat) = decide (65536 ≤ x.toNat + y.toNat) := by
  have hxl := xl.isLt
  have hyl := yl.isLt
  by_cases hcarry : 256 ≤ xl.toNat + yl.toNat
  · simp only [hcarry, decide_true, Bool.toNat_true, BitVec.toNat_add, BitVec.toNat_ofNat, decide_eq_decide, hx, hy]
    omega
  · simp only [hcarry, decide_false, Bool.toNat_false, BitVec.toNat_add, BitVec.toNat_ofNat, decide_eq_decide, hx, hy]
    omega

/-- The difference of two words by their bytes, the borrow of the low bytes taken from the high ones. -/
theorem sub_halves {x y : Word} {xh xl yh yl : Byte} (hx : x.toNat = 256 * xh.toNat + xl.toNat)
    (hy : y.toNat = 256 * yh.toNat + yl.toNat) :
    256 * (xh - yh - BitVec.ofNat 8 (1 - (decide (yl.toNat ≤ xl.toNat)).toNat)).toNat + (xl - yl).toNat = (x - y).toNat ∧
      decide (yh.toNat + (1 - (decide (yl.toNat ≤ xl.toNat)).toNat) ≤ xh.toNat) = decide (y.toNat ≤ x.toNat) := by
  have hxl := xl.isLt
  have hyl := yl.isLt
  have hxh := xh.isLt
  have hyh := yh.isLt
  by_cases hcarry : yl.toNat ≤ xl.toNat
  · simp only [hcarry, decide_true, Bool.toNat_true, BitVec.toNat_sub, BitVec.toNat_ofNat, decide_eq_decide, hx, hy]
    omega
  · simp only [hcarry, decide_false, Bool.toNat_false, BitVec.toNat_sub, BitVec.toNat_ofNat, decide_eq_decide, hx, hy]
    omega

theorem add_adc_pair {s t u : State} {pd ps : PairNum} (hwf : s.cfg.wf = true) (hm : s.cfg.flagModel = .conventional)
    (ht : exec (.add (lowReg s.cfg pd) (lowReg s.cfg ps)) s = .next t)
    (hu : exec (.adc (highReg s.cfg pd) (highReg s.cfg ps)) t = .next u) :
    u.readPair pd = s.readPair pd + s.readPair ps ∧ u.flag .c = decide (65536 ≤ (s.readPair pd).toNat + (s.readPair ps).toNat) := by
  obtain ⟨t', ht', hlow, hflags⟩ := exec_add_leaves hwf (lowReg s.cfg pd) (lowReg s.cfg ps)
  obtain rfl := Host.Outcome.next.inj (ht.symm.trans ht')
  have hcfg := cfg_of_result hlow
  obtain ⟨u', hu', hhigh, hflags'⟩ := exec_adc_leaves (hcfg ▸ hwf) (highReg s.cfg pd) (highReg s.cfg ps)
  obtain rfl := Host.Outcome.next.inj (hu.symm.trans hu')
  have hpair := pair_of_two_results hlow hhigh
  rw [highReg_kept_of_low_result hlow, highReg_kept_of_low_result hlow, (hflags hm).1] at hpair
  have hcarry := (hflags' (hcfg ▸ hm)).1
  rw [highReg_kept_of_low_result hlow, highReg_kept_of_low_result hlow, (hflags hm).1] at hcarry
  obtain ⟨hsum, hout⟩ := add_halves (readPair_toNat s pd) (readPair_toNat s ps)
  exact ⟨BitVec.eq_of_toNat_eq (hpair.trans hsum), hcarry.trans hout⟩

theorem sub_sbb_pair {s t u : State} {pd ps : PairNum} (hwf : s.cfg.wf = true) (hm : s.cfg.flagModel = .conventional)
    (ht : exec (.sub (lowReg s.cfg pd) (lowReg s.cfg ps)) s = .next t)
    (hu : exec (.sbb (highReg s.cfg pd) (highReg s.cfg ps)) t = .next u) :
    u.readPair pd = s.readPair pd - s.readPair ps ∧ u.flag .c = decide ((s.readPair ps).toNat ≤ (s.readPair pd).toNat) := by
  obtain ⟨t', ht', hlow, hflags⟩ := exec_sub_leaves hwf (lowReg s.cfg pd) (lowReg s.cfg ps)
  obtain rfl := Host.Outcome.next.inj (ht.symm.trans ht')
  have hcfg := cfg_of_result hlow
  obtain ⟨u', hu', hhigh, hflags'⟩ := exec_sbb_leaves (hcfg ▸ hwf) (highReg s.cfg pd) (highReg s.cfg ps)
  obtain rfl := Host.Outcome.next.inj (hu.symm.trans hu')
  have hpair := pair_of_two_results hlow hhigh
  rw [highReg_kept_of_low_result hlow, highReg_kept_of_low_result hlow, (hflags hm).1] at hpair
  have hcarry := (hflags' (hcfg ▸ hm)).1
  rw [highReg_kept_of_low_result hlow, highReg_kept_of_low_result hlow, (hflags hm).1] at hcarry
  obtain ⟨hdiff, hout⟩ := sub_halves (readPair_toNat s pd) (readPair_toNat s ps)
  exact ⟨BitVec.eq_of_toNat_eq (hpair.trans hdiff), hcarry.trans hout⟩

/-- Settles O58: the carry of the low bytes goes into the high ones, and the pair is 256 times the high byte and the low byte. -/
theorem twoByteArithmeticIsPairArithmetic : Obligations.TwoByteArithmeticIsPairArithmetic := by
  unfold Obligations.TwoByteArithmeticIsPairArithmetic
  exact fun s t u pd ps hwf hm => ⟨add_adc_pair hwf hm, sub_sbb_pair hwf hm⟩

end Sys2Proof.Machine

/-! PROOFS. Transfers of control (44, 46, 47, 48), the instructions on `s` and the stack (48, 49), HLT, and the Cycles column (70_reset_and_hazards.md R266, R267). -/

namespace Sys2Proof.Machine

/-! ### Cost -/

theorem cycles_eq_ite {i : Instr} {cond : Cond} {n : Nat} (hc : conditionOf i = cond) (hn : takenCost i = n) (s : State) :
    cycles i s = if s.cond cond then n else 1 := by
  rw [cycles, hc, hn]

/-- Where the taken cost is 1 the condition does not matter. -/
theorem cycles_eq_one {i : Instr} (hn : takenCost i = 1) (s : State) : cycles i s = 1 := by
  rw [cycles_eq_ite rfl hn, ite_self]

theorem takenCost_branch (cond : Cond) (a : BitVec 9) : takenCost (.branch cond a) = 1 := by cases cond <;> rfl
theorem takenCost_indirect (cond : Cond) (p : PairNum) : takenCost (.indirect cond p) = 1 := by cases cond <;> rfl
theorem takenCost_jump (cond : Cond) (a : Word) : takenCost (.jump cond a) = 2 := by cases cond <;> rfl
theorem takenCost_callTo (cond : Cond) (a : Word) : takenCost (.callTo cond a) = 2 := by cases cond <;> rfl
theorem takenCost_returnOn (cond : Cond) : takenCost (.returnOn cond) = 3 := by cases cond <;> rfl

theorem cycles_returnOn (cond : Cond) (s : State) : cycles (.returnOn cond) s = if s.cond cond then 3 else 1 :=
  cycles_eq_ite (conditionOf_returnOn cond) (takenCost_returnOn cond) s

theorem cycles_returnOn_cases (cond : Cond) (s : State) : cycles (.returnOn cond) s = 1 ∨ cycles (.returnOn cond) s = 3 := by
  rw [cycles_returnOn]
  split
  · exact .inr rfl
  · exact .inl rfl

/-- Settles O59: the taken cost and the condition of each instruction. -/
theorem costsAreThoseTabled : Obligations.CostsAreThoseTabled := by
  unfold Obligations.CostsAreThoseTabled
  intro s r q i p pp k b m a cond
  refine ⟨?two, cycles_of_always rfl s, cycles_eq_ite (conditionOf_jump cond a) (takenCost_jump cond a) s,
    cycles_eq_ite (conditionOf_callTo cond a) (takenCost_callTo cond a) s, cycles_returnOn cond s,
    cycles_eq_one (takenCost_branch cond b) s, cycles_eq_one (takenCost_indirect cond p) s, ?one⟩
  case two =>
    have hrow : ∀ x ∈ [Instr.inp r i, .lri r p, .lrd r p, .ldr r p k, .pop r, .pos, .jmp a, .call a],
        conditionOf x = .always ∧ takenCost x = 2 := by simp [conditionOf, takenCost]
    intro x hx
    obtain ⟨hc, hn⟩ := hrow x hx
    exact (cycles_of_always hc s).trans hn
  case one =>
    intro x hx
    refine cycles_eq_one ?_ s
    revert x
    simp [takenCost]

/-! ### Relative branches and indirect jumps -/

theorem transfer_eq (cond : Cond) (target len : Word) (s : State) :
    transfer cond target len s = .next { s with pc := if s.cond cond then target else s.pc + len } := by
  unfold transfer
  split <;> rfl

theorem exec_branch_eq {s : State} {a : BitVec 9} {offset : Word} (h : widen s.cfg.brOffset a = .ok offset) (cond : Cond) :
    exec (.branch cond a) s =
      .next { s with pc := if s.cond cond then s.pc + s.cfg.brBase.setWidth 16 + offset else s.pc + 1 } := by
  rw [exec_branch, relativeBranch, h]
  exact transfer_eq ..

theorem exec_indirect_eq (cond : Cond) (p : PairNum) (s : State) :
    exec (.indirect cond p) s = .next { s with pc := if s.cond cond then s.readPair p else s.pc + 1 } := by
  rw [exec_indirect]
  exact transfer_eq ..

theorem exec_jump_eq (cond : Cond) (a : Word) (s : State) :
    exec (.jump cond a) s = .next { s with pc := if s.cond cond then a else s.pc + 2 } := by
  rw [exec_jump]
  exact transfer_eq ..

/-- Settles O42: one shape, on the seven conditions. -/
theorem relativeBranchesSetThePc : Obligations.RelativeBranchesSetThePc := by
  unfold Obligations.RelativeBranchesSetThePc
  intro s a offset h
  have hbranch := exec_branch_eq h
  exact ⟨hbranch .always, hbranch .c, hbranch .nc, hbranch .z, hbranch .nz, hbranch .n, hbranch .nn⟩

/-- Settles O43: one shape, on the seven conditions; a word of Type P is its selector and its pair. -/
theorem indirectJumpsSetThePc : Obligations.IndirectJumpsSetThePc := by
  unfold Obligations.IndirectJumpsSetThePc
  intro s p
  have hjump := fun cond => exec_indirect_eq cond p s
  have hcost := fun cond => cycles_eq_one (takenCost_indirect cond p) s
  exact ⟨hjump .always, hjump .c, hjump .nc, hjump .z, hjump .nz, hjump .n, hjump .nn, rfl, hcost .always, rfl, hcost .c, rfl, hcost .nc,
    rfl, hcost .z, rfl, hcost .nz, rfl, hcost .n, rfl, hcost .nn⟩

/-! ### Jumps -/

/-- Settles O44: the exact next state of JMP, and the fetch of its two words. -/
theorem jmpSetsThePcToItsSecondWord : Obligations.JmpSetsThePcToItsSecondWord := by
  unfold Obligations.JmpSetsThePcToItsSecondWord
  refine ⟨fun s a => ⟨exec_jump_eq .always a s, encode_jump s.cfg .always a, cycles_of_always rfl s⟩,
    fun s hh hf hmapped hw => ⟨fun a ha => ?taken, fun hnext => ?unmapped⟩⟩
  all_goals have hfetch := fetchDecode_of_mapped hmapped
  case taken =>
    rw [ha] at hfetch
    have hd : s.fetchDecode = .ok (.jump .always a) [] := hfetch.trans (decode_jump hw rfl a [])
    rw [step_of_decode hh hf hd]
    exact exec_jump_eq .always a s
  case unmapped =>
    rw [hnext] at hfetch
    exact step_of_noSecondWord hh hf (hfetch.trans (decode_noSecondWord (cond := .always) hw (.inl rfl)))

/-- Settles O45: one shape, on the six conditions. -/
theorem conditionalJumpsSetThePc : Obligations.ConditionalJumpsSetThePc := by
  unfold Obligations.ConditionalJumpsSetThePc
  intro s a
  have hjump := fun cond => exec_jump_eq cond a s
  have hword := fun cond => encode_jump s.cfg cond a
  exact ⟨hjump .c, hword .c, hjump .nc, hword .nc, hjump .z, hword .z, hjump .nz, hword .nz, hjump .n, hword .n, hjump .nn, hword .nn⟩

/-! ### Calls and returns -/

theorem exec_callTo_notTaken {s : State} {cond : Cond} (hc : s.cond cond = false) (a : Word) :
    exec (.callTo cond a) s = .next { s with pc := s.pc + 2 } := by
  rw [exec_callTo]
  exact absoluteCall_next_iff.2 (.inr ⟨hc, rfl⟩)

theorem exec_callTo_taken {s : State} {cond : Cond} (hc : s.cond cond = true) (hl : s.stk.length < s.cfg.stackDepth) (a : Word) :
    exec (.callTo cond a) s = .next { s with pc := a, stk := .ret (s.pc + 2) :: s.stk } := by
  rw [exec_callTo]
  exact absoluteCall_next_iff.2 (.inl ⟨hc, hl, rfl⟩)

theorem exec_callTo_room {s : State} (hl : s.stk.length < s.cfg.stackDepth) (cond : Cond) (a : Word) :
    exec (.callTo cond a) s =
      .next (if s.cond cond then { s with pc := a, stk := .ret (s.pc + 2) :: s.stk } else { s with pc := s.pc + 2 }) := by
  split
  case isTrue hc => exact exec_callTo_taken hc hl a
  case isFalse hc => exact exec_callTo_notTaken (Bool.eq_false_iff.2 hc) a

theorem exec_callTo_full {s : State} {cond : Cond} (hl : s.cfg.stackDepth ≤ s.stk.length) (hc : s.cond cond = true) (a : Word) :
    exec (.callTo cond a) s = .fault .stackOverflow := by
  rw [exec_callTo]
  exact absoluteCall_fault_iff.2 ⟨hc, hl, rfl⟩

/-- Settles O46: taken with room, not taken, taken on a full stack, each on every condition. -/
theorem callsPushTheReturnAddressAndJump : Obligations.CallsPushTheReturnAddressAndJump := by
  unfold Obligations.CallsPushTheReturnAddressAndJump
  intro s a
  refine ⟨fun hl => ?room, fun h => exec_callTo_notTaken (cond := .c) h a, fun h => exec_callTo_notTaken (cond := .nc) h a,
    fun h => exec_callTo_notTaken (cond := .z) h a, fun h => exec_callTo_notTaken (cond := .nz) h a,
    fun h => exec_callTo_notTaken (cond := .n) h a, fun h => exec_callTo_notTaken (cond := .nn) h a, fun hl => ?full⟩
  case room =>
    have hcall := fun cond => exec_callTo_room hl cond a
    exact ⟨hcall .always, hcall .c, hcall .nc, hcall .z, hcall .nz, hcall .n, hcall .nn⟩
  case full =>
    have hcall := fun cond hc => exec_callTo_full (cond := cond) hl hc a
    exact ⟨hcall .always rfl, hcall .c, hcall .nc, hcall .z, hcall .nz, hcall .n, hcall .nn⟩

theorem exec_returnOn_notTaken {s : State} {cond : Cond} (hc : s.cond cond = false) :
    exec (.returnOn cond) s = .next { s with pc := s.pc + 1 } := by
  rw [exec_returnOn]
  exact subroutineReturn_next_iff.2 (.inr ⟨hc, rfl⟩)

theorem exec_returnOn_taken {s : State} {cond : Cond} {a : Word} {rest : List StackItem} (hc : s.cond cond = true)
    (hs : s.stk = .ret a :: rest) : exec (.returnOn cond) s = .next { s with pc := a, stk := rest } := by
  rw [exec_returnOn]
  exact subroutineReturn_next_iff.2 (.inl ⟨hc, a, rest, hs, rfl⟩)

theorem exec_returnOn_ret {s : State} {a : Word} {rest : List StackItem} (hs : s.stk = .ret a :: rest) (cond : Cond) :
    exec (.returnOn cond) s = .next (if s.cond cond then { s with pc := a, stk := rest } else { s with pc := s.pc + 1 }) := by
  split
  case isTrue hc => exact exec_returnOn_taken hc hs
  case isFalse hc => exact exec_returnOn_notTaken (Bool.eq_false_iff.2 hc)

theorem exec_returnOn_empty {s : State} {cond : Cond} (hs : s.stk = []) (hc : s.cond cond = true) :
    exec (.returnOn cond) s = .fault .stackUnderflow := by
  rw [exec_returnOn]
  exact subroutineReturn_fault_iff.2 ⟨hc, .inl ⟨hs, rfl⟩⟩

theorem exec_returnOn_mismatch {s : State} {cond : Cond} {top : StackItem} {rest : List StackItem} (hs : s.stk = top :: rest)
    (hkind : ∀ a, top ≠ .ret a) (hc : s.cond cond = true) : exec (.returnOn cond) s = .fault .stackKindMismatch := by
  rw [exec_returnOn]
  exact subroutineReturn_fault_iff.2 ⟨hc, .inr ⟨top, rest, hs, hkind, rfl⟩⟩

/-- Settles O47: with a return address on top, not taken, on an empty stack, on an item of another kind, each on every condition. -/
theorem returnsPopTheReturnAddress : Obligations.ReturnsPopTheReturnAddress := by
  unfold Obligations.ReturnsPopTheReturnAddress
  intro s
  have hcost := fun cond => cycles_returnOn_cases cond s
  refine ⟨fun a rest hs => ?ret, exec_returnOn_notTaken (cond := .c), exec_returnOn_notTaken (cond := .nc),
    exec_returnOn_notTaken (cond := .z), exec_returnOn_notTaken (cond := .nz), exec_returnOn_notTaken (cond := .n),
    exec_returnOn_notTaken (cond := .nn), fun hs => ?empty, fun top rest hs hkind => ?mismatch, rfl, hcost .always, rfl, hcost .c, rfl,
    hcost .nc, rfl, hcost .z, rfl, hcost .nz, rfl, hcost .n, rfl, hcost .nn⟩
  case ret =>
    have hret := exec_returnOn_ret hs
    exact ⟨hret .always, hret .c, hret .nc, hret .z, hret .nz, hret .n, hret .nn⟩
  case empty =>
    have hret := fun cond hc => exec_returnOn_empty (cond := cond) hs hc
    exact ⟨hret .always rfl, hret .c, hret .nc, hret .z, hret .nz, hret .n, hret .nn⟩
  case mismatch =>
    have hret := fun cond hc => exec_returnOn_mismatch (cond := cond) hs hkind hc
    exact ⟨hret .always rfl, hret .c, hret .nc, hret .z, hret .nz, hret .n, hret .nn⟩

/-- Settles O48: the call leaves its return address on top, and the return takes it off. -/
theorem returnUndoesCall : Obligations.ReturnUndoesCall := by
  unfold Obligations.ReturnUndoesCall
  intro s t cond back a hc hcall hback
  rw [exec_callTo, absoluteCall_next_iff] at hcall
  obtain ⟨-, -, rfl⟩ | ⟨hnot, -⟩ := hcall
  · exact exec_returnOn_taken hback rfl
  · exact absurd (hc.symm.trans hnot) (by decide)

/-! ### The status register on the stack -/

theorem exec_pus_room {s : State} (hl : s.stk.length < s.cfg.stackDepth) :
    exec .pus s = .next { s with stk := .stat s.status :: s.stk, pc := s.pc + 1 } :=
  execPus_next_iff.2 ⟨hl, rfl⟩

theorem exec_pos_stat {s : State} {v : Status} {rest : List StackItem} (hs : s.stk = .stat v :: rest) :
    exec .pos s = .next { s with status := v, stk := rest, pc := s.pc + 1 } :=
  execPos_next_iff.2 ⟨v, rest, hs, rfl⟩

theorem not_writesStatusWhole {i : Instr} (hpos : i ≠ .pos) (hssr : ∀ m, i ≠ .ssr m) (hcsr : ∀ m, i ≠ .csr m) :
    ¬WritesStatusWhole i := by
  rintro (h | ⟨m, h⟩ | ⟨m, h⟩)
  · exact hpos h
  · exact hssr m h
  · exact hcsr m h

/-- Settles O52: by what a push and a pop can do; the bit that holds no flag is outside every row of the flag table. -/
theorem pusAndPosSaveAndRestoreTheStatusRegister : Obligations.PusAndPosSaveAndRestoreTheStatusRegister := by
  unfold Obligations.PusAndPosSaveAndRestoreTheStatusRegister
  intro s
  refine ⟨fun hl => ⟨exec_pus_room hl, ?restore⟩, fun hl => execPus_fault_iff.2 ⟨hl, rfl⟩, fun v rest => exec_pos_stat,
    fun hs => execPos_fault_iff.2 (.inl ⟨hs, rfl⟩),
    fun top rest hs hkind => execPos_fault_iff.2 (.inr ⟨top, rest, hs, hkind, rfl⟩), fun i t h hpos hssr hcsr j hj => ?unnamed,
    rfl, cycles_eq_one rfl s, rfl, cycles_of_always rfl s⟩
  case restore =>
    rw [exec_pos_stat rfl]
    simp [add_assoc]
  case unnamed => exact (exec_nextForm h).status_kept (not_writesStatusWhole hpos hssr hcsr) j fun f _ => hj f

/-- A word of Type M is the mask between four zeros and eight fixed bits (R96). -/
theorem encodeM_eq (m fn : BitVec 4) : encodeM m fn = 0b0000#4 ++ m ++ (fn ++ 0b1111#4) := by
  rw [encodeM, BitVec.append_assoc]
  rfl

/-- Settles O55: OR, bit by bit. -/
theorem ssrSetsTheMaskedBits : Obligations.SsrSetsTheMaskedBits := by
  unfold Obligations.SsrSetsTheMaskedBits
  exact fun s m => ⟨rfl, fun _ => BitVec.getLsbD_or, congrArg ([·]) (encodeM_eq m 0b0111#4), cycles_eq_one rfl s⟩

/-- Settles O56: AND, bit by bit. -/
theorem csrKeepsTheMaskedBits : Obligations.CsrKeepsTheMaskedBits := by
  unfold Obligations.CsrKeepsTheMaskedBits
  exact fun s m => ⟨rfl, fun _ => BitVec.getLsbD_and, congrArg ([·]) (encodeM_eq m 0b1000#4), cycles_eq_one rfl s⟩

/-! ### HLT -/

theorem exec_hlt (s : State) : exec .hlt s = .next { s with halted := true, pc := s.pc + 1 } := rfl

/-- Settles O54: HLT halts, a halted state takes no step, and HLT_WORD decodes to HLT. -/
theorem hltHaltsAndEndsTheRun : Obligations.HltHaltsAndEndsTheRun := by
  unfold Obligations.HltHaltsAndEndsTheRun
  intro s
  refine ⟨exec_hlt s, cycles_eq_one rfl s, run_stopped (.inl rfl), fun w hw => ⟨?word, fun hh hf hmapped => ?step⟩⟩
  case word => simp [encode, hw]
  case step => rw [step_of_decode hh hf ((fetchDecode_of_mapped hmapped).trans (decode_hltWord hw _)), exec_hlt]

/-! ### The bits of the status register -/

theorem putFlag_eq (s : State) (f : Flag) (b : Bool) : s.putFlag f b = { s with status := (s.putFlag f b).status } := rfl

theorem status_putFlag (s : State) (f : Flag) (b : Bool) (j : Fin 4) :
    (s.putFlag f b).status.getLsbD j = if j = s.cfg.flagBit f then b else s.status.getLsbD j :=
  getLsbD_putBit s.status (s.cfg.flagBit f) j b

/-- Settles O60: a flag is read from its bit, and a write puts that bit alone. -/
theorem flagsAreTheirBitsOfTheStatusRegister : Obligations.FlagsAreTheirBitsOfTheStatusRegister := by
  unfold Obligations.FlagsAreTheirBitsOfTheStatusRegister
  exact fun s => ⟨rfl, rfl, rfl, fun b => ⟨putFlag_eq s .c b, status_putFlag s .c b⟩, fun b => ⟨putFlag_eq s .z b, status_putFlag s .z b⟩,
    fun b => ⟨putFlag_eq s .n b, status_putFlag s .n b⟩⟩

end Sys2Proof.Machine
